-- ==== Sys2Proof/Word.lean ====
section
/-! DEFINITION. The words of KSPC: bytes, 16-bit operands, 32-bit host words, 9-bit counters (spec 10_state.md R20). -/

namespace Sys2Proof

/-- A byte: `u8` of 00_scope.md R10. -/
abbrev Byte := BitVec 8

/-- A 16-bit operand register or encoder count (10_state.md R32, R36). -/
abbrev Half := BitVec 16

/-- A host word: the register port moves 32 bits (20_memory.md R51). -/
abbrev Word := BitVec 32

/-- The 9-bit counters rx_idx, RXSIZE, tx_n and tx_idx (10_state.md R20). -/
abbrev Count := BitVec 9

end Sys2Proof
end

