-- ==== Sys2Proof/Config.lean ====
section
/-! DEFINITION. What an implementation of KSPC fixes: the parameters of spec 00_scope.md R8 and the descriptor language
of SENSOR_LAYOUT (42_sensor_codec.md R160-R162). SENSOR_LAYOUT has no default: it is an opaque constant. -/

namespace Sys2Proof

/-- The descriptor forms of 42_sensor_codec.md R160; `o` is an offset from the first payload byte. -/
inductive Descriptor where
  | bit (o : Nat) (k : Fin 8)
  | u8 (o : Nat)
  | s8 (o : Nat)
  | u16 (o : Nat)
  | s16 (o : Nat)
  | u32 (o : Nat)
  | absent
deriving DecidableEq, Repr, Inhabited

/-- What R162 allows a button, bumper or wheel-drop field: `BIT` or `ABSENT`. -/
inductive FlagDescriptor where
  | bit (o : Nat) (k : Fin 8)
  | absent
deriving DecidableEq, Repr, Inhabited

/-- What R162 allows `ENC_L` and `ENC_R`: `U16` or `ABSENT`. -/
inductive CountDescriptor where
  | u16 (o : Nat)
  | absent
deriving DecidableEq, Repr, Inhabited

/-- A well-formed SENSOR_LAYOUT. The types of the fields are R162's conditions, so the machine can hold no ill-formed
layout; `acceptLayout` is where one is refused (93_implementation_defined.md I6; notes/assumptions/4). -/
structure SensorLayout where
  btn0 : FlagDescriptor
  btn1 : FlagDescriptor
  btn2 : FlagDescriptor
  bumpL : FlagDescriptor
  bumpC : FlagDescriptor
  bumpR : FlagDescriptor
  dropL : FlagDescriptor
  dropC : FlagDescriptor
  dropR : FlagDescriptor
  encL : CountDescriptor
  encR : CountDescriptor
  extra : Vector Descriptor 16
deriving DecidableEq, Repr, Inhabited

/-- The snapshot field names of 10_state.md R36, the keys of a layout as R160 writes it. -/
inductive SnapField where
  | btn0 | btn1 | btn2
  | bumpL | bumpC | bumpR
  | dropL | dropC | dropR
  | encL | encR
  | extra (i : Fin 16)
deriving DecidableEq, Repr

/-- A layout as R160 gives it: any table of field name and descriptor, well-formed or not, and with a field named twice or
not (notes/assumptions/4). -/
abbrev RawLayout := List (SnapField × Descriptor)

/-- The implementation parameters of 00_scope.md R8. -/
structure Params where
  /-- FAIL_CAP, 1..255. -/
  failCap : Nat
  /-- BUF_CAP, 140..257. -/
  bufCap : Nat
  /-- RX_SIZE_BIAS, 2 or 3. -/
  rxSizeBias : Nat
  /-- SENSOR_LAYOUT. -/
  layout : SensorLayout
deriving DecidableEq, Repr

/-- The ranges of 00_scope.md R8. -/
abbrev Params.wf (p : Params) : Prop :=
  1 ≤ p.failCap ∧ p.failCap ≤ 255 ∧ 140 ≤ p.bufCap ∧ p.bufCap ≤ 257 ∧ (p.rxSizeBias = 2 ∨ p.rxSizeBias = 3)

/-- SENSOR_LAYOUT is OPEN (00_scope.md R8, 92_eei_decisions.md D20): some well-formed layout that nothing can evaluate. -/
opaque Config.sensorLayout : SensorLayout

/-- The parameters of the machine after reset: the defaults of R8, and the open layout (notes/assumptions/3). -/
def Config.params : Params :=
  { failCap := 3, bufCap := 257, rxSizeBias := 3, layout := Config.sensorLayout }

end Sys2Proof
end

