-- ==== Sys2Proof/Syntax.lean ====
section
/-! DEFINITION. The instructions of KSPC: the operations a CMD write selects, one constructor per row of
spec/opcode_table.json (spec 30_encoding.md R82, R83). -/

namespace Sys2Proof

/-- One constructor per row of the opcode table. The operations have no immediates (R84). Two of the three ILLEGAL rows
leave bits of the code open, and hold the code. Bits 31:4 of the CMD word are ignored (20_memory.md R55), so no
constructor holds them (notes/assumptions/9). -/
inductive Instr where
  /-- 0x1, 42_sensor_codec.md R166. -/
  | poll
  /-- 0x2, 40_receiver.md R100. -/
  | recv
  /-- 0x3, 42_sensor_codec.md R165. -/
  | decode
  /-- 0x4, 41_encoder.md R135. -/
  | encRaw
  /-- 0x5, 41_encoder.md R136. -/
  | encDrive
  /-- 0x6, 41_encoder.md R137. -/
  | encPidDefault
  /-- 0x7, 41_encoder.md R138. -/
  | encPidUser
  /-- 0x8, 41_encoder.md R139. -/
  | encSound
  /-- 0x9, 41_encoder.md R141. -/
  | encReqinfo
  /-- 0x0, 43_host_interface.md R186. -/
  | illegal0
  /-- 0xA and 0xB, 43_host_interface.md R186. -/
  | illegalAB (code : BitVec 4)
  /-- 0xC to 0xF, 43_host_interface.md R186. -/
  | illegalCF (code : BitVec 4)
deriving DecidableEq, Repr

end Sys2Proof
end

