-- ==== Sys2Proof/WellFormed.lean ====
section
/-! DEFINITION. Which instruction terms stand for words: the code an ILLEGAL term holds lies in its own row of
spec/opcode_table.json (spec 30_encoding.md R83). -/

namespace Sys2Proof

/-- `i` is the reading of some CMD word. -/
def Instr.wf : Instr → Bool
  | .poll => true
  | .recv => true
  | .decode => true
  | .encRaw => true
  | .encDrive => true
  | .encPidDefault => true
  | .encPidUser => true
  | .encSound => true
  | .encReqinfo => true
  | .illegal0 => true
  | .illegalAB code => code &&& 0xE#4 == 0xA#4
  | .illegalCF code => code &&& 0xC#4 == 0xC#4

end Sys2Proof
end

