-- ==== Sys2Proof/Decode.lean ====
section
/-! DEFINITION. The decoder and the encoder. A host access is an instruction when it writes CMD (spec 20_memory.md R55);
the code is w[3:0] (30_encoding.md R82). The encoder is written from the same rows. -/

namespace Sys2Proof

/-- The inputs of the host port in one HOST step (10_state.md R41). -/
structure HostPins where
  hReq : Bool
  hWe : Bool
  hWidx : BitVec 10
  hWdata : Word
deriving DecidableEq, Repr

/-- Why a host access is no instruction. -/
inductive DecodeReject where
  /-- h_req = 0: there is no access. -/
  | noAccess
  /-- h_we = 0: the access reads a register. -/
  | readAccess
  /-- The word written is not CMD. -/
  | otherRegister
deriving DecidableEq, Repr

/-- The operation field of a CMD word: bits 3:0 (20_memory.md R55). -/
def cmdCode (w : Word) : BitVec 4 := w.extractLsb' 0 4

/-- The instruction a CMD word selects (30_encoding.md R82, R83). Every code has a row. -/
def decodeCmd (w : Word) : Instr :=
  match (cmdCode w).toNat with
  | 0x0 => .illegal0
  | 0x1 => .poll
  | 0x2 => .recv
  | 0x3 => .decode
  | 0x4 => .encRaw
  | 0x5 => .encDrive
  | 0x6 => .encPidDefault
  | 0x7 => .encPidUser
  | 0x8 => .encSound
  | 0x9 => .encReqinfo
  | 0xA => .illegalAB (cmdCode w)
  | 0xB => .illegalAB (cmdCode w)
  | _ => .illegalCF (cmdCode w)

/-- The instruction of a host access, or the reason it is none. The CMD register has word index 0x000 (20_memory.md R52). -/
def decodeAccess (p : HostPins) : Except DecodeReject Instr :=
  if p.hReq = false then .error .noAccess
  else if p.hWe = false then .error .readAccess
  else if p.hWidx = 0x000#10 then .ok (decodeCmd p.hWdata)
  else .error .otherRegister

/-- A write of `w` to CMD on the host port. -/
def cmdWrite (w : Word) : HostPins :=
  { hReq := true, hWe := true, hWidx := 0x000#10, hWdata := w }

/-- The operation code of an instruction (30_encoding.md R82, R83). -/
def encodeCode : Instr → BitVec 4
  | .poll => 0x1#4
  | .recv => 0x2#4
  | .decode => 0x3#4
  | .encRaw => 0x4#4
  | .encDrive => 0x5#4
  | .encPidDefault => 0x6#4
  | .encPidUser => 0x7#4
  | .encSound => 0x8#4
  | .encReqinfo => 0x9#4
  | .illegal0 => 0x0#4
  | .illegalAB code => code
  | .illegalCF code => code

/-- The CMD word of an instruction: the code, with the ignored bits 31:4 zero. -/
def encodeWord (i : Instr) : Word := (encodeCode i).setWidth 32

/-- The host access that starts an instruction (30_encoding.md R86: a mnemonic stands for `WR CMD, <code>`). -/
def encode (i : Instr) : HostPins := cmdWrite (encodeWord i)

/-- A row of spec/opcode_table.json: a word is in the row when `w AND mask = value`. -/
structure OpcodeRow where
  mask : Word
  value : Word
deriving DecidableEq, Repr

/-- The row of spec/opcode_table.json an instruction belongs to. -/
def opcodeRow : Instr → OpcodeRow
  | .poll => { mask := 0xF, value := 0x1 }
  | .recv => { mask := 0xF, value := 0x2 }
  | .decode => { mask := 0xF, value := 0x3 }
  | .encRaw => { mask := 0xF, value := 0x4 }
  | .encDrive => { mask := 0xF, value := 0x5 }
  | .encPidDefault => { mask := 0xF, value := 0x6 }
  | .encPidUser => { mask := 0xF, value := 0x7 }
  | .encSound => { mask := 0xF, value := 0x8 }
  | .encReqinfo => { mask := 0xF, value := 0x9 }
  | .illegal0 => { mask := 0xF, value := 0x0 }
  | .illegalAB _ => { mask := 0xE, value := 0xA }
  | .illegalCF _ => { mask := 0xC, value := 0xC }

/-- The twelve rows of spec/opcode_table.json, in its order. -/
def opcodeRows : List OpcodeRow :=
  [opcodeRow .poll, opcodeRow .recv, opcodeRow .decode, opcodeRow .encRaw, opcodeRow .encDrive,
    opcodeRow .encPidDefault, opcodeRow .encPidUser, opcodeRow .encSound, opcodeRow .encReqinfo,
    opcodeRow .illegal0, opcodeRow (.illegalAB 0xA#4), opcodeRow (.illegalCF 0xC#4)]

/-- The CMD word given as a number of `nbits` bits: the bits above are 0. -/
def cmdWordOfBits (nbits w : Nat) : Word := BitVec.ofNat 32 (w % 2 ^ nbits)

/-- What the decoder reads from a table word of `nbits` bits; no host word is longer than 32 bits (20_memory.md R51). -/
def decodeTableWord (nbits w : Nat) : Option Instr :=
  if nbits ≤ 32 then (decodeAccess (cmdWrite (cmdWordOfBits nbits w))).toOption else none

end Sys2Proof
end

