-- ==== Sys2Proof/Machine/State.lean ====
section
/-! DEFINITION. The state of KSPC: every element of spec 10_state.md R20, the parameters of 00_scope.md R8, and the
environment's side of the ports (10_state.md R39-R41, 43_host_interface.md R189) as plain data; the faults, the refusals
and reset. -/

namespace Sys2Proof.Machine

/-- The receiver's state (10_state.md R22). -/
inductive RxState where
  | idle | awaitHeader | readLength | readPayload | readChecksum
deriving DecidableEq, Repr

/-- What OP holds: 0x0 after reset, then the code of the last operation accepted (10_state.md R30). No illegal code gets
there (43_host_interface.md R186; notes/assumptions/17). -/
inductive OpCode where
  | noOp | poll | recv | decode | encRaw | encDrive | encPidDefault | encPidUser | encSound | encReqinfo
deriving DecidableEq, Repr

/-- The result codes of 60_exceptions.md R200; 8..15 are never produced. -/
inductive ResultCode where
  | ok | rxIo | cksumCap | txIo | overrun | decodeShort | noFrame | illegalOp
deriving DecidableEq, Repr

/-- The snapshot registers (10_state.md R36). -/
structure Snapshot where
  btn0 : Bool
  btn1 : Bool
  btn2 : Bool
  bumpL : Bool
  bumpC : Bool
  bumpR : Bool
  dropL : Bool
  dropC : Bool
  dropR : Bool
  encL : Half
  encR : Half
  extra : Vector Word 16
deriving DecidableEq, Repr

/-- One byte buffer: addresses strictly rising. An address not listed has no value: nothing has written it since reset,
and reading it is a fault (93_implementation_defined.md I1; notes/assumptions/5). -/
abbrev Memory := List Host.Cell

/-- A receive event (10_state.md R39). -/
inductive RxEvent where
  | byte (b : Byte)
  | err
deriving DecidableEq, Repr

/-- The inputs of the receive port (10_state.md R39). -/
structure RxPins where
  rxByte : Byte
  rxValid : Bool
  rxErr : Bool
deriving DecidableEq, Repr

/-- The inputs of the transmit port (10_state.md R40). -/
structure TxPins where
  txReady : Bool
  txErr : Bool
deriving DecidableEq, Repr

/-- Whose step is next, with the inputs of that step (10_state.md R21, 70_reset_and_hazards.md R230). -/
inductive Turn where
  /-- HOST: one register access. -/
  | host (p : HostPins)
  /-- ENV: it offers what its receive pins show. -/
  | env (p : RxPins)
  /-- RXE: it consumes the oldest event offered, if it is enabled. -/
  | rxe
  /-- TXE, with the ENV's answer to the byte offered. -/
  | txe (p : TxPins)
  /-- The reset input. -/
  | rst
deriving DecidableEq, Repr

/-- The state. The first group is exactly the table of 10_state.md R20, in its order; the second is the parameters; the
third is the environment's side of the streams and the order of coming steps (notes/assumptions/1, 3, 7, 10). -/
structure State where
  rxState : RxState
  hdrAa : Bool
  rxLen : Byte
  rxIdx : Count
  rxBuf : Memory
  failCnt : Byte
  rxValid : Bool
  rxSize : Count
  busy : Bool
  op : OpCode
  code : ResultCode
  arg0 : Half
  arg1 : Half
  kp : Word
  ki : Word
  kd : Word
  txpay : Memory
  txf : Memory
  txN : Count
  txIdx : Count
  snap : Snapshot
  snapValid : Bool
  /-- FAIL_CAP, BUF_CAP, RX_SIZE_BIAS and SENSOR_LAYOUT (00_scope.md R8); no step changes them. -/
  params : Params
  /-- Receive events offered and not yet consumed, oldest first (10_state.md R39). -/
  rxStream : List RxEvent
  /-- Receive events consumed so far, oldest first: the stream position of 43_host_interface.md R189. -/
  rxTaken : List RxEvent
  /-- Transmit bytes the ENV has accepted so far, oldest first (43_host_interface.md R189). -/
  wire : List Byte
  /-- The h_rdata output (10_state.md R41): what the last host read returned. -/
  hRdata : Word
  /-- The coming steps. -/
  schedule : List Turn
deriving DecidableEq, Repr

/-- Why the machine stops. Each is safe: the hardware goes on with a value no rule of the spec fixes, or no run gets
there. -/
inductive Fault where
  /-- A host read, DECODE or the RXE reads an `rx_buf` byte never written since reset (93_implementation_defined.md I1,
  43_host_interface.md R180). Safe. -/
  | rxBufUnspecified
  /-- A host read returns, or ENC_RAW would send, a TXPAY byte never written since reset (I1, 41_encoder.md R135). Safe. -/
  | txpayUnspecified
  /-- A host read of a snapshot word while SNAPVALID = 0 (I1, 43_host_interface.md R180). Safe. -/
  | snapshotUnspecified
  /-- The TXE would offer a `txf` byte that nothing wrote; no run gets there (notes/assumptions/11). Safe. -/
  | txfUnspecified
  /-- The RXE would store outside `rx_buf[0..BUF_CAP-1]`; no run gets there (notes/assumptions/11). Safe. -/
  | rxBufOutOfRange
  /-- The RXE is enabled while `rx_state` is IDLE, which 40_receiver.md R101 says never holds (notes/assumptions/11). Safe. -/
  | receiverIdle
deriving DecidableEq, Repr

/-- Why an instruction has no meaning. -/
inductive Refusal where
  /-- Raised by an arm of exec that has no meaning yet; none is left. Safe. -/
  | notModelled (mnemonic : String)
deriving DecidableEq, Repr

/-- The three outcomes of a step of this machine. -/
abbrev Result := Host.Outcome State Fault Refusal

/-- The snapshot at reset. The spec leaves it unspecified; DESIGN CHOICE zero, and no host read shows it before a decode
has written it (notes/assumptions/6). -/
def Snapshot.zero : Snapshot :=
  { btn0 := false, btn1 := false, btn2 := false, bumpL := false, bumpC := false, bumpR := false,
    dropL := false, dropC := false, dropR := false, encL := 0, encR := 0, extra := Vector.replicate 16 0 }

/-- The machine after reset with the parameters `p` (10_state.md R20, 70_reset_and_hazards.md R230), and with no event
offered, no step scheduled and nothing sent (notes/assumptions/2). -/
def State.resetWith (p : Params) : State :=
  { rxState := .idle, hdrAa := false, rxLen := 0, rxIdx := 0, rxBuf := [], failCnt := 0, rxValid := false, rxSize := 0,
    busy := false, op := .noOp, code := .ok, arg0 := 0, arg1 := 0, kp := 0, ki := 0, kd := 0, txpay := [], txf := [],
    txN := 0, txIdx := 0, snap := Snapshot.zero, snapValid := false,
    params := p, rxStream := [], rxTaken := [], wire := [], hRdata := 0, schedule := [] }

/-- The machine right after reset. -/
def State.reset : State := State.resetWith Config.params

end Sys2Proof.Machine
end

