-- ==== Sys2Proof/Machine/Ops.lean ====
section
/-! DEFINITION. The operations the meanings share: byte buffers, the checksum and the frame (spec 00_scope.md R12,
41_encoder.md R132), starting and finishing an operation (00_scope.md R11), the ports (10_state.md R39, R40), the reset
step (70_reset_and_hazards.md R230). -/

namespace Sys2Proof.Machine

/-! ### Byte buffers -/

/-- Addresses strictly rising: the one form of a buffer. -/
abbrev Memory.wf (m : Memory) : Prop := m.Pairwise (fun x y => x.1 < y.1)

/-- What an address no write has reached since reset reads as: no value (notes/assumptions/5). -/
def Memory.unlisted : Option Byte := none

/-- The byte at an address. -/
def Memory.read : Memory → Nat → Option Byte
  | [], _ => Memory.unlisted
  | c :: m, a => if c.1 = a then some c.2 else Memory.read m a

/-- Writes one byte and keeps the addresses rising. -/
def Memory.write : Memory → Nat → Byte → Memory
  | [], a, b => [(a, b)]
  | c :: m, a, b =>
    if a < c.1 then (a, b) :: c :: m
    else if a = c.1 then (a, b) :: m
    else c :: Memory.write m a b

/-- The `n` bytes from address `a` on, where every one of them has been written. -/
def Memory.readList (m : Memory) (a : Nat) : Nat → Option (List Byte)
  | 0 => some []
  | n + 1 =>
    match Memory.read m a, Memory.readList m (a + 1) n with
    | some b, some bs => some (b :: bs)
    | _, _ => none

/-- Writes a list of bytes from address `a` on. -/
def Memory.writeList (m : Memory) (a : Nat) : List Byte → Memory
  | [] => m
  | b :: bs => Memory.writeList (Memory.write m a b) (a + 1) bs

/-! ### The frame -/

/-- `XOR(s)` of 00_scope.md R10, the checksum function of R12. -/
def cks : List Byte → Byte
  | [] => 0x00#8
  | b :: bs => b ^^^ cks bs

/-- The length byte of a payload of at most 255 bytes. -/
def lengthByte (payload : List Byte) : Byte := BitVec.ofNat 8 payload.length

/-- The frame function of 41_encoder.md R132. -/
def frame (payload : List Byte) : List Byte :=
  [0xAA#8, 0x55#8, lengthByte payload] ++ payload ++ [cks (lengthByte payload :: payload)]

/-! ### Outcomes -/

/-- An engine's answer as an outcome of the step. -/
def outcomeOf : Except Fault State → Result
  | .ok s => .next s
  | .error f => .fault f

/-- A CMD write while BUSY = 1 has no effect at all, before its code is looked at (43_host_interface.md R183,
60_exceptions.md R205). -/
def unlessBusy (s : State) (r : Result) : Result :=
  if s.busy = true then .next s else r

/-! ### Operations -/

/-- `finish(code)` of 00_scope.md R11: the one way an operation with BUSY = 1 ends, with OK or with an error. It stands
where other machines take an exception, and there is nothing to return from (60_exceptions.md R202, R207;
notes/assumptions/8). -/
def finish (c : ResultCode) (s : State) : State :=
  { s with code := c, busy := false, rxState := .idle }

/-- OP is RECV or POLL. -/
def OpCode.isReceive (o : OpCode) : Bool := o = .recv || o = .poll

/-- OP is one of the six ENC_* codes (10_state.md R21). -/
def OpCode.isEncode : OpCode → Bool
  | .encRaw => true
  | .encDrive => true
  | .encPidDefault => true
  | .encPidUser => true
  | .encSound => true
  | .encReqinfo => true
  | .noOp => false
  | .poll => false
  | .recv => false
  | .decode => false

/-- The dispatch of a receive (40_receiver.md R100, 42_sensor_codec.md R166). -/
def startReceive (o : OpCode) (s : State) : State :=
  { s with op := o, busy := true, rxValid := false, rxState := .awaitHeader, hdrAa := false, rxIdx := 0 }

/-- The dispatch of an encode: the frame is composed whole (41_encoder.md R130). -/
def startTransmit (o : OpCode) (payload : List Byte) (s : State) : State :=
  { s with
    txf := Memory.writeList s.txf 0 (frame payload)
    txN := BitVec.ofNat 9 (payload.length + 4)
    txIdx := 0
    op := o
    busy := true }

/-- Sets the coming steps. -/
def State.withSchedule (ts : List Turn) (s : State) : State := { s with schedule := ts }

/-! ### The ports -/

/-- The rx_ready output (10_state.md R39). -/
def rxReady (s : State) : Bool := s.busy && s.op.isReceive

/-- The tx_valid output (10_state.md R40). -/
def txValid (s : State) : Bool := s.busy && s.op.isEncode

/-- The tx_byte output, where `txf[tx_idx]` has been written (10_state.md R40). -/
def txByte (s : State) : Option Byte := Memory.read s.txf s.txIdx.toNat

/-- The event the receive pins show: rx_err wins over rx_valid (10_state.md R39; notes/assumptions/13). -/
def RxPins.event (p : RxPins) : Option RxEvent :=
  if p.rxErr = true then some .err
  else if p.rxValid = true then some (.byte p.rxByte)
  else none

/-- ENV: what the pins show is offered, and waits until the RXE consumes it (10_state.md R39, 43_host_interface.md R188). -/
def envOffer (p : RxPins) (s : State) : State :=
  { s with rxStream := s.rxStream ++ p.event.toList }

/-! ### Reset -/

/-- The reset step: every element of 10_state.md R20 takes its reset value; the streams, the parameters and the coming
steps are not KSPC's and stay (70_reset_and_hazards.md R230, R231; notes/assumptions/15). -/
def resetStep (s : State) : State :=
  { State.resetWith s.params with
    rxStream := s.rxStream
    rxTaken := s.rxTaken
    wire := s.wire
    hRdata := s.hRdata
    schedule := s.schedule }

end Sys2Proof.Machine
end

