-- ==== Sys2Proof/Machine/Operands.lean ====
section
/-! DEFINITION. Operand forms: little-endian fields, the payloads assembled from the operand registers (spec
30_encoding.md R75-R80, R84) and the byte windows of the host register space (20_memory.md R56, R57). -/

namespace Sys2Proof.Machine

/-- The low byte, `v[7:0]`. -/
def lo8 (v : Half) : Byte := v.extractLsb' 0 8

/-- The high byte, `v[15:8]`. -/
def hi8 (v : Half) : Byte := v.extractLsb' 8 8

/-- A 16-bit field, little-endian (20_memory.md R59). -/
def le16 (v : Half) : List Byte := [lo8 v, hi8 v]

/-- Byte `k` of a word, `w[8k+7:8k]`. -/
def byteOfWord (w : Word) (k : Nat) : Byte := w.extractLsb' (8 * k) 8

/-- A 32-bit field, little-endian (20_memory.md R59). -/
def le32 (w : Word) : List Byte := [byteOfWord w 0, byteOfWord w 1, byteOfWord w 2, byteOfWord w 3]

/-- The word with byte 0 at bits 7:0 (20_memory.md R56, R57). -/
def wordOfBytes (b0 b1 b2 b3 : Byte) : Word := b3 ++ b2 ++ b1 ++ b0

/-! ### Payloads -/

/-- The payload length of ENC_RAW, `ARG0[7:0]` (41_encoder.md R135). -/
def rawLength (s : State) : Nat := (lo8 s.arg0).toNat

/-- The payload of ENC_RAW, `TXPAY[0 .. n-1]`, where each of them has been written (41_encoder.md R135). -/
def rawPayload (s : State) : Option (List Byte) := Memory.readList s.txpay 0 (rawLength s)

/-- The Drive sub-payload: speed is ARG0, radius ARG1 (30_encoding.md R75, 41_encoder.md R136). -/
def drivePayload (s : State) : List Byte := [0x01#8, 0x04#8] ++ le16 s.arg0 ++ le16 s.arg1

/-- The PID default sub-payload (30_encoding.md R77). -/
def pidDefaultPayload : List Byte := [0x0D#8, 0x0D#8, 0x00#8] ++ List.replicate 12 0x00#8

/-- The PID user sub-payload (30_encoding.md R78). -/
def pidUserPayload (s : State) : List Byte := [0x0D#8, 0x0D#8, 0x01#8] ++ le32 s.kp ++ le32 s.ki ++ le32 s.kd

/-- The Play sound sub-payload: the byte is `ARG0[7:0]` (30_encoding.md R79). -/
def soundPayload (s : State) : List Byte := [0x04#8, 0x01#8, lo8 s.arg0]

/-- The Request info sub-payload (30_encoding.md R80). -/
def reqinfoPayload : List Byte := [0x09#8, 0x02#8, 0x0B#8, 0x00#8]

/-! ### Windows -/

/-- Word `j` of the TXPAY window, where its four bytes have been written (20_memory.md R56, 43_host_interface.md R180). -/
def txpayWord (s : State) (j : Nat) : Option Word :=
  match Memory.readList s.txpay (4 * j) 4 with
  | some [b0, b1, b2, b3] => some (wordOfBytes b0 b1 b2 b3)
  | _ => none

/-- A byte position of the RXBUF window: at or above BUF_CAP it reads 0x00 (20_memory.md R57). -/
def rxBufWindowByte (s : State) (a : Nat) : Option Byte :=
  if s.params.bufCap ≤ a then some 0x00#8 else Memory.read s.rxBuf a

/-- Word `j` of the RXBUF window, where each of its bytes below BUF_CAP has been written (20_memory.md R57). -/
def rxBufWord (s : State) (j : Nat) : Option Word :=
  match rxBufWindowByte s (4 * j), rxBufWindowByte s (4 * j + 1), rxBufWindowByte s (4 * j + 2),
      rxBufWindowByte s (4 * j + 3) with
  | some b0, some b1, some b2, some b3 => some (wordOfBytes b0 b1 b2 b3)
  | _, _, _, _ => none

/-- A write to word `j` of the TXPAY window writes its four bytes (20_memory.md R56, 43_host_interface.md R181). -/
def writeTxpayWord (j : Nat) (w : Word) (s : State) : State :=
  { s with txpay := Memory.writeList s.txpay (4 * j) (le32 w) }

end Sys2Proof.Machine
end

