-- ==== Sys2Proof/Machine/Encoder.lean ====
section
/-! DEFINITION. The Frame Encoder (spec 41_encoder.md): the six encode operations and the step of the transmit engine. -/

namespace Sys2Proof.Machine

/-- ENC_RAW (41_encoder.md R135): a TXPAY byte it would send and nothing has written since reset is a fault
(93_implementation_defined.md I1). -/
def rawCommand (s : State) : Except Fault State :=
  match rawPayload s with
  | some P => .ok (startTransmit .encRaw P s)
  | none => .error .txpayUnspecified

/-- ENC_RAW (41_encoder.md R135). -/
def execEncRaw (s : State) : Result := unlessBusy s (outcomeOf (rawCommand s))

/-- ENC_DRIVE (41_encoder.md R136). -/
def execEncDrive (s : State) : Result := unlessBusy s (.next (startTransmit .encDrive (drivePayload s) s))

/-- ENC_PID_DEFAULT (41_encoder.md R137). -/
def execEncPidDefault (s : State) : Result := unlessBusy s (.next (startTransmit .encPidDefault pidDefaultPayload s))

/-- ENC_PID_USER (41_encoder.md R138). -/
def execEncPidUser (s : State) : Result := unlessBusy s (.next (startTransmit .encPidUser (pidUserPayload s) s))

/-- ENC_SOUND (41_encoder.md R139). -/
def execEncSound (s : State) : Result := unlessBusy s (.next (startTransmit .encSound (soundPayload s) s))

/-- ENC_REQINFO (41_encoder.md R141). -/
def execEncReqinfo (s : State) : Result := unlessBusy s (.next (startTransmit .encReqinfo reqinfoPayload s))

/-! ### The step of the transmit engine -/

/-- The ENV accepts the byte offered (41_encoder.md R131). -/
def txAccept (s : State) : Except Fault State :=
  match txByte s with
  | none => .error .txfUnspecified
  | some b =>
    if s.txIdx + 1 = s.txN then
      .ok (finish .ok { s with wire := s.wire ++ [b], txIdx := s.txIdx + 1 })
    else .ok { s with wire := s.wire ++ [b], txIdx := s.txIdx + 1 }

/-- The transmit engine on the ENV's answer: tx_err wins over tx_ready, and with neither there is no event
(10_state.md R40, 41_encoder.md R131, R133). -/
def txeStep (p : TxPins) (s : State) : Except Fault State :=
  if p.txErr = true then .ok (finish .txIo s)
  else if p.txReady = true then txAccept s
  else .ok s

/-- A turn of the TXE: a step if tx_valid, and none otherwise (10_state.md R21, R40; notes/assumptions/14). -/
def txeTurn (p : TxPins) (s : State) : Result :=
  if txValid s = true then outcomeOf (txeStep p s) else .next s

end Sys2Proof.Machine
end

