-- ==== Sys2Proof/Machine/Codec.lean ====
section
/-! DEFINITION. The Sensor Codec (spec 42_sensor_codec.md): descriptors, layouts, the decode function, and DECODE. -/

namespace Sys2Proof.Machine

/-! ### Descriptors -/

/-- Payload byte `i`. -/
def payloadByte (P : List Byte) (i : Nat) : Byte := P.getD i 0x00#8

/-- The 16-bit value at offset `o`, little-endian (20_memory.md R60). -/
def payloadHalf (P : List Byte) (o : Nat) : Half := payloadByte P (o + 1) ++ payloadByte P o

/-- The 32-bit value at offset `o`, little-endian. -/
def payloadWord (P : List Byte) (o : Nat) : Word :=
  payloadByte P (o + 3) ++ payloadByte P (o + 2) ++ payloadByte P (o + 1) ++ payloadByte P o

/-- `w(d)` of 42_sensor_codec.md R161. -/
def descWidth : Descriptor → Nat
  | .bit _ _ => 1
  | .u8 _ => 1
  | .s8 _ => 1
  | .u16 _ => 2
  | .s16 _ => 2
  | .u32 _ => 4
  | .absent => 0

/-- The offset of a descriptor; ABSENT has none and counts as 0. -/
def descOffset : Descriptor → Nat
  | .bit o _ => o
  | .u8 o => o
  | .s8 o => o
  | .u16 o => o
  | .s16 o => o
  | .u32 o => o
  | .absent => 0

/-- The descriptor fits a payload of length `L` (42_sensor_codec.md R161). -/
def descFits (d : Descriptor) (L : Nat) : Bool := descOffset d + descWidth d ≤ L

/-- The 32-bit value of a descriptor over a payload it fits (42_sensor_codec.md R160, R162). -/
def descValue (d : Descriptor) (P : List Byte) : Word :=
  match d with
  | .bit o k => (BitVec.ofBool ((payloadByte P o).getLsbD k.val)).setWidth 32
  | .u8 o => (payloadByte P o).setWidth 32
  | .s8 o => (payloadByte P o).signExtend 32
  | .u16 o => (payloadHalf P o).setWidth 32
  | .s16 o => (payloadHalf P o).signExtend 32
  | .u32 o => payloadWord P o
  | .absent => 0

/-- A flag field's descriptor in the language of R160. -/
def flagDesc : FlagDescriptor → Descriptor
  | .bit o k => .bit o k
  | .absent => .absent

/-- An encoder field's descriptor in the language of R160. -/
def countDesc : CountDescriptor → Descriptor
  | .u16 o => .u16 o
  | .absent => .absent

/-- The value of a flag field. -/
def flagValue (d : FlagDescriptor) (P : List Byte) : Bool := (descValue (flagDesc d) P).getLsbD 0

/-- The value of an encoder field. -/
def countValue (d : CountDescriptor) (P : List Byte) : Half := (descValue (countDesc d) P).setWidth 16

/-! ### Layouts -/

/-- The descriptor a layout gives a snapshot field. -/
def layoutDesc (l : SensorLayout) : SnapField → Descriptor
  | .btn0 => flagDesc l.btn0
  | .btn1 => flagDesc l.btn1
  | .btn2 => flagDesc l.btn2
  | .bumpL => flagDesc l.bumpL
  | .bumpC => flagDesc l.bumpC
  | .bumpR => flagDesc l.bumpR
  | .dropL => flagDesc l.dropL
  | .dropC => flagDesc l.dropC
  | .dropR => flagDesc l.dropR
  | .encL => countDesc l.encL
  | .encR => countDesc l.encR
  | .extra i => l.extra[i]

/-- The nine flag fields. -/
def flagFields : List SnapField := [.btn0, .btn1, .btn2, .bumpL, .bumpC, .bumpR, .dropL, .dropC, .dropR]

/-- The two encoder fields. -/
def countFields : List SnapField := [.encL, .encR]

/-- The sixteen EXTRA fields. -/
def extraFields : List SnapField :=
  [.extra 0, .extra 1, .extra 2, .extra 3, .extra 4, .extra 5, .extra 6, .extra 7,
    .extra 8, .extra 9, .extra 10, .extra 11, .extra 12, .extra 13, .extra 14, .extra 15]

/-- Every snapshot field of 10_state.md R36. -/
def allFields : List SnapField := flagFields ++ countFields ++ extraFields

/-- Every field of the layout fits a payload of length `L` (42_sensor_codec.md R163). -/
def layoutFits (l : SensorLayout) (L : Nat) : Bool := allFields.all (fun f => descFits (layoutDesc l f) L)

/-- The EXTRA values of a layout over a payload. -/
def extraValues (ds : Vector Descriptor 16) (P : List Byte) : Vector Word 16 :=
  ⟨⟨ds.toList.map (fun d => descValue d P)⟩, by simp⟩

/-- The snapshot a layout reads from a payload (42_sensor_codec.md R163). -/
def snapshotOf (l : SensorLayout) (P : List Byte) : Snapshot :=
  { btn0 := flagValue l.btn0 P
    btn1 := flagValue l.btn1 P
    btn2 := flagValue l.btn2 P
    bumpL := flagValue l.bumpL P
    bumpC := flagValue l.bumpC P
    bumpR := flagValue l.bumpR P
    dropL := flagValue l.dropL P
    dropC := flagValue l.dropC P
    dropR := flagValue l.dropR P
    encL := countValue l.encL P
    encR := countValue l.encR P
    extra := extraValues l.extra P }

/-! ### Loading a layout -/

/-- What a raw layout says of a field: the descriptor of the one entry that names it, and nothing where no entry or more
than one names it. DESIGN CHOICE: a table that names a field twice is no map of 42_sensor_codec.md R160, even where both
entries agree (notes/assumptions/4). -/
def rawDesc (raw : RawLayout) (f : SnapField) : Option Descriptor :=
  match raw.filter (fun e => e.1 = f) with
  | [e] => some e.2
  | _ => none

/-- A descriptor R162 allows a flag field. -/
def asFlag : Descriptor → Option FlagDescriptor
  | .bit o k => some (.bit o k)
  | .absent => some .absent
  | .u8 _ => none
  | .s8 _ => none
  | .u16 _ => none
  | .s16 _ => none
  | .u32 _ => none

/-- A descriptor R162 allows an encoder field. -/
def asCount : Descriptor → Option CountDescriptor
  | .u16 o => some (.u16 o)
  | .absent => some .absent
  | .bit _ _ => none
  | .u8 _ => none
  | .s8 _ => none
  | .s16 _ => none
  | .u32 _ => none

/-- The flag descriptor a raw layout gives a field, if it gives one R162 allows. -/
def rawFlag (raw : RawLayout) (f : SnapField) : Option FlagDescriptor := (rawDesc raw f).bind asFlag

/-- The encoder descriptor a raw layout gives a field, if it gives one R162 allows. -/
def rawCount (raw : RawLayout) (f : SnapField) : Option CountDescriptor := (rawDesc raw f).bind asCount

/-- The requirements of 42_sensor_codec.md R162, that no field is missing (93_implementation_defined.md I6), and that none is
named twice (notes/assumptions/4). -/
def rawWellFormed (raw : RawLayout) : Bool :=
  flagFields.all (fun f => (rawFlag raw f).isSome) && countFields.all (fun f => (rawCount raw f).isSome) &&
    extraFields.all (fun f => (rawDesc raw f).isSome)

/-- The layout a raw layout stands for; only used where `rawWellFormed` holds, so no default is ever taken. -/
def layoutOfRaw (raw : RawLayout) : SensorLayout :=
  { btn0 := (rawFlag raw .btn0).getD .absent
    btn1 := (rawFlag raw .btn1).getD .absent
    btn2 := (rawFlag raw .btn2).getD .absent
    bumpL := (rawFlag raw .bumpL).getD .absent
    bumpC := (rawFlag raw .bumpC).getD .absent
    bumpR := (rawFlag raw .bumpR).getD .absent
    dropL := (rawFlag raw .dropL).getD .absent
    dropC := (rawFlag raw .dropC).getD .absent
    dropR := (rawFlag raw .dropR).getD .absent
    encL := (rawCount raw .encL).getD .absent
    encR := (rawCount raw .encR).getD .absent
    extra := ⟨⟨extraFields.map (fun f => (rawDesc raw f).getD .absent)⟩, by simp [extraFields]⟩ }

/-- Loads a layout, and refuses one that breaks a requirement of 42_sensor_codec.md R162: a missing field, a flag that is
neither BIT nor ABSENT, an encoder that is neither U16 nor ABSENT (93_implementation_defined.md I6). DESIGN CHOICE: it
refuses a table that names a field twice as well (notes/assumptions/4). -/
def acceptLayout (raw : RawLayout) : Option SensorLayout :=
  if rawWellFormed raw = true then some (layoutOfRaw raw) else none

/-! ### Decoding -/

/-- The payload of the frame in `rx_buf`: `rx_buf[1 .. L]` with `L = rx_buf[0]` (42_sensor_codec.md R163). -/
def framePayload (s : State) : Option (List Byte) :=
  match Memory.read s.rxBuf 0 with
  | some L => Memory.readList s.rxBuf 1 L.toNat
  | none => none

/-- What `decode(rx_buf)` answers (42_sensor_codec.md R163), with the state it leaves. -/
def decodeBuffer (s : State) : Except Fault (ResultCode × State) :=
  match framePayload s with
  | none => .error .rxBufUnspecified
  | some P =>
    if layoutFits s.params.layout P.length = true then
      .ok (.ok, { s with snap := snapshotOf s.params.layout P, snapValid := true })
    else .ok (.decodeShort, s)

/-- DECODE once it is known that BUSY = 0 (42_sensor_codec.md R165). -/
def decodeCommand (s : State) : Except Fault State :=
  if s.rxValid = false then .ok { s with op := .decode, code := .noFrame }
  else
    match decodeBuffer { s with op := .decode } with
    | .error f => .error f
    | .ok (c, t) => .ok { t with code := c }

/-- DECODE (42_sensor_codec.md R165): it runs whole in the CMD write and BUSY stays 0. -/
def execDecode (s : State) : Result := unlessBusy s (outcomeOf (decodeCommand s))

end Sys2Proof.Machine
end

