-- ==== Sys2Proof/Machine/Receiver.lean ====
section
/-! DEFINITION. The Framing Receiver (spec 40_receiver.md): the dispatch of RECV and POLL (42_sensor_codec.md R166) and
the step of the receive engine. -/

namespace Sys2Proof.Machine

/-! ### The step of the receive engine -/

/-- `rx_buf[i] <- b`; the buffer has the addresses 0 .. BUF_CAP-1 (10_state.md R20). -/
def rxStore (i : Nat) (b : Byte) (s : State) : Except Fault State :=
  if i < s.params.bufCap then .ok { s with rxBuf := Memory.write s.rxBuf i b } else .error .rxBufOutOfRange

/-- AWAIT_HEADER (40_receiver.md R102). -/
def rxAwaitHeader (b : Byte) (s : State) : State :=
  if s.hdrAa = true ∧ b = 0x55#8 then { s with rxState := .readLength, hdrAa := false }
  else { s with hdrAa := b = 0xAA#8 }

/-- READ_LENGTH once `rx_len` is written and the frame is known to fit (40_receiver.md R103). -/
def rxTakeLength (b : Byte) (s : State) : Except Fault State :=
  match rxStore 0 b s with
  | .error f => .error f
  | .ok t => .ok { t with rxIdx := 1, rxState := if b = 0x00#8 then .readChecksum else .readPayload }

/-- READ_LENGTH (40_receiver.md R103, R109): the overrun check comes before any write to `rx_buf`. -/
def rxReadLength (b : Byte) (s : State) : Except Fault State :=
  if s.params.bufCap < b.toNat + 2 then .ok (finish .overrun { s with rxLen := b })
  else rxTakeLength b { s with rxLen := b }

/-- READ_PAYLOAD (40_receiver.md R104). -/
def rxReadPayload (b : Byte) (s : State) : Except Fault State :=
  match rxStore s.rxIdx.toNat b s with
  | .error f => .error f
  | .ok t =>
    .ok { t with
      rxIdx := s.rxIdx + 1
      rxState := if s.rxIdx + 1 = s.rxLen.setWidth 9 + 1 then .readChecksum else .readPayload }

/-- The writes of a checksum match (40_receiver.md R106). -/
def rxMatchWrites (s : State) : State :=
  { s with
    failCnt := 0
    rxValid := true
    rxSize := s.rxLen.setWidth 9 + BitVec.ofNat 9 s.params.rxSizeBias }

/-- A checksum match: RECV ends, POLL decodes in the same step and ends (40_receiver.md R106, 42_sensor_codec.md R166). -/
def rxMatch (s : State) : Except Fault State :=
  if s.op = .poll then
    match decodeBuffer (rxMatchWrites s) with
    | .error f => .error f
    | .ok (c, t) => .ok (finish c t)
  else .ok (finish .ok (rxMatchWrites s))

/-- `min(fail_cnt + 1, FAIL_CAP)` (40_receiver.md R107). -/
def bumpFailCnt (s : State) : Nat := min (s.failCnt.toNat + 1) s.params.failCap

/-- A checksum mismatch: the increment comes before the cap test (40_receiver.md R107, R108). -/
def rxMismatch (s : State) : State :=
  if bumpFailCnt s = s.params.failCap then
    finish .cksumCap { s with failCnt := BitVec.ofNat 8 (bumpFailCnt s) }
  else
    { s with
      failCnt := BitVec.ofNat 8 (bumpFailCnt s)
      rxState := .awaitHeader
      hdrAa := false
      rxIdx := 0 }

/-- READ_CHECKSUM (40_receiver.md R105): the checksum covers the length byte and the payload, `rx_buf[0 .. rx_len]`. -/
def rxReadChecksum (b : Byte) (s : State) : Except Fault State :=
  match rxStore s.rxIdx.toNat b s with
  | .error f => .error f
  | .ok t =>
    match Memory.readList t.rxBuf 0 (s.rxLen.toNat + 1) with
    | none => .error .rxBufUnspecified
    | some bytes => if cks bytes = b then rxMatch t else .ok (rxMismatch t)

/-- The receive engine on a byte (40_receiver.md R101). -/
def rxByteStep (b : Byte) (s : State) : Except Fault State :=
  match s.rxState with
  | .idle => .error .receiverIdle
  | .awaitHeader => .ok (rxAwaitHeader b s)
  | .readLength => rxReadLength b s
  | .readPayload => rxReadPayload b s
  | .readChecksum => rxReadChecksum b s

/-- The receive engine on an event (40_receiver.md R101): an error wins over everything (R110, 60_exceptions.md R204). -/
def rxeStep (e : RxEvent) (s : State) : Except Fault State :=
  match e with
  | .err => .ok (finish .rxIo s)
  | .byte b => rxByteStep b s

/-- A turn of the RXE: it consumes the oldest event offered, if rx_ready and an event is offered; otherwise it has no
step (10_state.md R21, R39). -/
def rxeTurn (s : State) : Result :=
  if rxReady s = true then
    match s.rxStream with
    | [] => .next s
    | e :: es => outcomeOf (rxeStep e { s with rxStream := es, rxTaken := s.rxTaken ++ [e] })
  else .next s

/-! ### A receive as a function -/

/-- What `recv` answers (40_receiver.md R113); `stopped` is a fault of the model. Of the state that `pending` holds, R113 fixes
only what the receive itself wrote (notes/assumptions/20). -/
inductive RecvResult where
  | done (code : ResultCode) (k : Nat) (frame : Option (List Byte)) (failCnt : Byte)
  | pending (s : State)
  | stopped (f : Fault)
deriving DecidableEq, Repr

/-- The frame a successful receive leaves, `rx_buf[0 .. L+1]`. -/
def receivedFrame (s : State) : Option (List Byte) := Memory.readList s.rxBuf 0 (s.rxLen.toNat + 2)

/-- Runs the receive engine over events until the receive ends; `k` counts the events consumed. -/
def recvFrom (s : State) (k : Nat) : List RxEvent → RecvResult
  | [] => .pending s
  | e :: es =>
    match rxeStep e s with
    | .error f => .stopped f
    | .ok t =>
      if t.busy = true then recvFrom t (k + 1) es
      else .done t.code (k + 1) (if t.rxValid = true then receivedFrame t else none) t.failCnt

/-- `recv(f, s)` of 40_receiver.md R113, for the parameters `p`. DESIGN CHOICE: what the dispatch of R100 does not write
(rx_len, rx_buf, RXSIZE, CODE, the operands, txf, the snapshot) and R113 does not give holds what it holds after reset
(notes/assumptions/20), so `rx_buf` of a pending state lists the bytes of this receive only. -/
def recv (p : Params) (f : Byte) (events : List RxEvent) : RecvResult :=
  recvFrom (startReceive .recv { State.resetWith p with failCnt := f }) 0 events

/-! ### The operations -/

/-- RECV (40_receiver.md R100). -/
def execRecv (s : State) : Result := unlessBusy s (.next (startReceive .recv s))

/-- POLL (42_sensor_codec.md R166). -/
def execPoll (s : State) : Result := unlessBusy s (.next (startReceive .poll s))

end Sys2Proof.Machine
end

