-- ==== Sys2Proof/Machine/Flags.lean ====
section
/-! DEFINITION. The numbers of the status fields and the read-only words made of them: STATUS (spec 20_memory.md R53),
CONFIG (R54), RXSIZE and the snapshot words (R52). -/

namespace Sys2Proof.Machine

/-- The encoding of rx_state (10_state.md R22). -/
def RxState.bits : RxState → BitVec 3
  | .idle => 0
  | .awaitHeader => 1
  | .readLength => 2
  | .readPayload => 3
  | .readChecksum => 4

/-- The value of OP (30_encoding.md R82), 0x0 before any operation (10_state.md R20). -/
def OpCode.bits : OpCode → BitVec 4
  | .noOp => 0x0
  | .poll => 0x1
  | .recv => 0x2
  | .decode => 0x3
  | .encRaw => 0x4
  | .encDrive => 0x5
  | .encPidDefault => 0x6
  | .encPidUser => 0x7
  | .encSound => 0x8
  | .encReqinfo => 0x9

/-- The value of CODE (60_exceptions.md R200). -/
def ResultCode.bits : ResultCode → BitVec 4
  | .ok => 0
  | .rxIo => 1
  | .cksumCap => 2
  | .txIo => 3
  | .overrun => 4
  | .decodeShort => 5
  | .noFrame => 6
  | .illegalOp => 7

/-- One bit. -/
def flagBit (b : Bool) : BitVec 1 := BitVec.ofBool b

/-- The STATUS word, from bit 31 down (20_memory.md R53). -/
def statusWord (s : State) : Word :=
  0#4 ++ s.op.bits ++ s.failCnt ++ 0#5 ++ s.rxState.bits ++ s.code.bits ++ 0#1 ++ flagBit s.snapValid
    ++ flagBit s.rxValid ++ flagBit s.busy

/-- The CONFIG word, from bit 31 down (20_memory.md R54). -/
def configWord (p : Params) : Word :=
  0#13 ++ BitVec.ofNat 2 p.rxSizeBias ++ BitVec.ofNat 9 p.bufCap ++ BitVec.ofNat 8 p.failCap

/-- A word of three flags at bits 0, 1 and 2 (20_memory.md R52). -/
def flagsWord (f0 f1 f2 : Bool) : Word := 0#29 ++ flagBit f2 ++ flagBit f1 ++ flagBit f0

/-- The SNAP_ENC word: ENC_L in the low half (20_memory.md R52). -/
def encoderWord (t : Snapshot) : Word := t.encR ++ t.encL

end Sys2Proof.Machine
end

