-- ==== Sys2Proof/Machine/RegisterPort.lean ====
section
/-! DEFINITION. The host register port (spec 20_memory.md R51-R57, 43_host_interface.md R180, R181), and the illegal
operation codes (R186). -/

namespace Sys2Proof.Machine

/-- The mapped registers of 20_memory.md R52. -/
inductive HostReg where
  | cmd | status | arg0 | arg1 | kp | ki | kd | rxSize | config
  | txpay (j : Fin 64)
  | rxBuf (j : Fin 65)
  | snapBtn | snapBump | snapDrop | snapEnc
  | snapExtra (i : Fin 16)
deriving DecidableEq, Repr

/-- The word index of a register (20_memory.md R52). -/
def regIndex : HostReg → Nat
  | .cmd => 0x000
  | .status => 0x001
  | .arg0 => 0x002
  | .arg1 => 0x003
  | .kp => 0x004
  | .ki => 0x005
  | .kd => 0x006
  | .rxSize => 0x007
  | .config => 0x008
  | .txpay j => 0x040 + j.val
  | .rxBuf j => 0x080 + j.val
  | .snapBtn => 0x100
  | .snapBump => 0x101
  | .snapDrop => 0x102
  | .snapEnc => 0x103
  | .snapExtra i => 0x104 + i.val

/-- The registers at the word indexes 0x000 to 0x008 (20_memory.md R52). -/
def controlReg : Nat → Option HostReg
  | 0x000 => some .cmd
  | 0x001 => some .status
  | 0x002 => some .arg0
  | 0x003 => some .arg1
  | 0x004 => some .kp
  | 0x005 => some .ki
  | 0x006 => some .kd
  | 0x007 => some .rxSize
  | 0x008 => some .config
  | _ => none

/-- The snapshot words at the word indexes 0x100 to 0x103, by the distance from 0x100 (20_memory.md R52). -/
def snapReg : Nat → Option HostReg
  | 0 => some .snapBtn
  | 1 => some .snapBump
  | 2 => some .snapDrop
  | 3 => some .snapEnc
  | _ => none

/-- The register at a word index, or none where the index is unmapped (20_memory.md R52). -/
def hostReg (widx : BitVec 10) : Option HostReg :=
  if widx.toNat < 0x040 then controlReg widx.toNat
  else if widx.toNat < 0x080 then some (.txpay (Fin.ofNat 64 (widx.toNat - 0x040)))
  else if widx.toNat ≤ 0x0C0 then some (.rxBuf (Fin.ofNat 65 (widx.toNat - 0x080)))
  else if widx.toNat < 0x100 then none
  else if widx.toNat < 0x104 then snapReg (widx.toNat - 0x100)
  else if widx.toNat ≤ 0x113 then some (.snapExtra (Fin.ofNat 16 (widx.toNat - 0x104)))
  else none

/-- A word of a buffer window, or the fault that one of its bytes is unspecified (43_host_interface.md R180,
93_implementation_defined.md I1). -/
def windowWord (f : Fault) : Option Word → Except Fault Word
  | some w => .ok w
  | none => .error f

/-- A snapshot word; while SNAPVALID = 0 its fields are unspecified, and "a model faults" on reading one
(43_host_interface.md R180, 93_implementation_defined.md I1). -/
def snapWord (s : State) (w : Word) : Except Fault Word :=
  if s.snapValid = true then .ok w else .error .snapshotUnspecified

/-- The content of a register (20_memory.md R52). -/
def regView (r : HostReg) (s : State) : Except Fault Word :=
  match r with
  | .cmd => .ok 0
  | .status => .ok (statusWord s)
  | .arg0 => .ok (s.arg0.setWidth 32)
  | .arg1 => .ok (s.arg1.setWidth 32)
  | .kp => .ok s.kp
  | .ki => .ok s.ki
  | .kd => .ok s.kd
  | .rxSize => .ok (s.rxSize.setWidth 32)
  | .config => .ok (configWord s.params)
  | .txpay j => windowWord .txpayUnspecified (txpayWord s j.val)
  | .rxBuf j => windowWord .rxBufUnspecified (rxBufWord s j.val)
  | .snapBtn => snapWord s (flagsWord s.snap.btn0 s.snap.btn1 s.snap.btn2)
  | .snapBump => snapWord s (flagsWord s.snap.bumpL s.snap.bumpC s.snap.bumpR)
  | .snapDrop => snapWord s (flagsWord s.snap.dropL s.snap.dropC s.snap.dropR)
  | .snapEnc => snapWord s (encoderWord s.snap)
  | .snapExtra i => snapWord s s.snap.extra[i]

/-- `view(i)` of 43_host_interface.md R180: an unmapped word reads 0 (20_memory.md R51). -/
def view (widx : BitVec 10) (s : State) : Except Fault Word :=
  match hostReg widx with
  | some r => regView r s
  | none => .ok 0

/-- A host read: it writes nothing of KSPC's, and h_rdata shows the value (43_host_interface.md R180, 20_memory.md R64;
notes/assumptions/7). -/
def hostRead (widx : BitVec 10) (s : State) : Except Fault State :=
  match view widx s with
  | .ok w => .ok { s with hRdata := w }
  | .error f => .error f

/-- A write to a register other than CMD (43_host_interface.md R181); a write to CMD is an instruction, and step runs it. -/
def regWrite (r : HostReg) (w : Word) (s : State) : State :=
  match r with
  | .cmd => s
  | .status => s
  | .arg0 => { s with arg0 := w.extractLsb' 0 16 }
  | .arg1 => { s with arg1 := w.extractLsb' 0 16 }
  | .kp => { s with kp := w }
  | .ki => { s with ki := w }
  | .kd => { s with kd := w }
  | .rxSize => s
  | .config => s
  | .txpay j => writeTxpayWord j.val w s
  | .rxBuf _ => s
  | .snapBtn => s
  | .snapBump => s
  | .snapDrop => s
  | .snapEnc => s
  | .snapExtra _ => s

/-- A host write to a word other than CMD; an unmapped word takes nothing (20_memory.md R51, 43_host_interface.md R181). -/
def hostWrite (widx : BitVec 10) (w : Word) (s : State) : State :=
  match hostReg widx with
  | some r => regWrite r w s
  | none => s

/-- A HOST step that is no CMD write (10_state.md R41). -/
def hostAccess (p : HostPins) (s : State) : Result :=
  if p.hReq = false then .next s
  else if p.hWe = true then .next (hostWrite p.hWidx p.hWdata s)
  else outcomeOf (hostRead p.hWidx s)

/-! ### Illegal operation codes -/

/-- An illegal code with BUSY = 0 sets CODE and changes nothing else (43_host_interface.md R186). -/
def illegalOperation (s : State) : State := { s with code := .illegalOp }

/-- Code 0x0 (43_host_interface.md R186). -/
def execIllegal0 (s : State) : Result := unlessBusy s (.next (illegalOperation s))

/-- Codes 0xA and 0xB (43_host_interface.md R186); the code itself is kept nowhere. -/
def execIllegalAB (_code : BitVec 4) (s : State) : Result := unlessBusy s (.next (illegalOperation s))

/-- Codes 0xC to 0xF (43_host_interface.md R186); the code itself is kept nowhere. -/
def execIllegalCF (_code : BitVec 4) (s : State) : Result := unlessBusy s (.next (illegalOperation s))

end Sys2Proof.Machine
end

