-- ==== Sys2Proof/Machine/Dispatch.lean ====
section
/-! DEFINITION. The meaning of each operation (spec 43_host_interface.md R183): one arm per constructor of Instr. -/

namespace Sys2Proof.Machine

def exec (i : Instr) (s : State) : Host.Outcome State Fault Refusal :=
  match i with
  | .poll => Sys2Proof.Machine.execPoll s
  | .recv => Sys2Proof.Machine.execRecv s
  | .decode => Sys2Proof.Machine.execDecode s
  | .encRaw => Sys2Proof.Machine.execEncRaw s
  | .encDrive => Sys2Proof.Machine.execEncDrive s
  | .encPidDefault => Sys2Proof.Machine.execEncPidDefault s
  | .encPidUser => Sys2Proof.Machine.execEncPidUser s
  | .encSound => Sys2Proof.Machine.execEncSound s
  | .encReqinfo => Sys2Proof.Machine.execEncReqinfo s
  | .illegal0 => Sys2Proof.Machine.execIllegal0 s
  | .illegalAB code => Sys2Proof.Machine.execIllegalAB code s
  | .illegalCF code => Sys2Proof.Machine.execIllegalCF code s

end Sys2Proof.Machine
end

