-- ==== Sys2Proof/Machine/Step.lean ====
section
/-! DEFINITION. One step: the turn at the head of the schedule (spec 10_state.md R21). -/

namespace Sys2Proof.Machine

/-- One step of the agent whose turn is next (10_state.md R21, R206). A CMD write is decoded and its operation dispatched
(43_host_interface.md R183); any other host access is a register access. With no turn left no agent moves and the state
does not change (notes/assumptions/1, 2). -/
def step (s : State) : Host.Outcome State Fault Refusal :=
  match s.schedule with
  | [] => .next s
  | .host p :: ts =>
    match decodeAccess p with
    | .ok i => exec i (State.withSchedule ts s)
    | .error _ => hostAccess p (State.withSchedule ts s)
  | .env p :: ts => .next (envOffer p (State.withSchedule ts s))
  | .rxe :: ts => rxeTurn (State.withSchedule ts s)
  | .txe p :: ts => txeTurn p (State.withSchedule ts s)
  | .rst :: ts => .next (resetStep (State.withSchedule ts s))

/-- `s` with the host about to write the CMD word given as a number of `nbits` bits, so that the next step runs it
(notes/assumptions/2). -/
def State.withFetchWord (s : State) (nbits w : Nat) : State :=
  State.withSchedule (.host (cmdWrite (cmdWordOfBits nbits w)) :: s.schedule) s

end Sys2Proof.Machine
end

