-- ==== Sys2Proof/Machine/Run.lean ====
section
/-! DEFINITION. When a run of a host program ends, and its end state (spec 43_host_interface.md R189). -/

namespace Sys2Proof.Machine

/-- The end state of a run: the whole state of 10_state.md R20, in its order, with the two stream positions of
43_host_interface.md R189. The parameters, the events not consumed, h_rdata and the turns left are no part of it. -/
structure EndState where
  rxState : RxState
  hdrAa : Bool
  rxLen : Byte
  rxIdx : Count
  rxBuf : Memory
  failCnt : Byte
  rxValid : Bool
  rxSize : Count
  busy : Bool
  op : OpCode
  code : ResultCode
  arg0 : Half
  arg1 : Half
  kp : Word
  ki : Word
  kd : Word
  txpay : Memory
  txf : Memory
  txN : Count
  txIdx : Count
  snap : Snapshot
  snapValid : Bool
  /-- The receive events consumed so far. -/
  rxTaken : List RxEvent
  /-- The transmit bytes the ENV has accepted so far. -/
  wire : List Byte
deriving DecidableEq, Repr

/-- What a run leaves of a state (43_host_interface.md R189). -/
def State.endState (s : State) : EndState :=
  { rxState := s.rxState, hdrAa := s.hdrAa, rxLen := s.rxLen, rxIdx := s.rxIdx, rxBuf := s.rxBuf, failCnt := s.failCnt,
    rxValid := s.rxValid, rxSize := s.rxSize, busy := s.busy, op := s.op, code := s.code, arg0 := s.arg0, arg1 := s.arg1,
    kp := s.kp, ki := s.ki, kd := s.kd, txpay := s.txpay, txf := s.txf, txN := s.txN, txIdx := s.txIdx, snap := s.snap,
    snapValid := s.snapValid, rxTaken := s.rxTaken, wire := s.wire }

/-- The turn is a register access of the host. A HOST turn with h_req = 0 is none (10_state.md R41). -/
def Turn.isHostAccess : Turn → Bool
  | .host p => p.hReq
  | .env _ => false
  | .rxe => false
  | .txe _ => false
  | .rst => false

/-- The host has made its last access: none is left in the schedule (43_host_interface.md R189; notes/assumptions/19). -/
def State.hostDone (s : State) : Bool := s.schedule.all (fun turn => !turn.isHostAccess)

/-- The run has ended: the host has made its last access, and BUSY = 0 (43_host_interface.md R189). Turns of the ENV, the
engines or the reset input that are left do not matter. -/
def State.runEnded (s : State) : Bool := s.hostDone && !s.busy

/-- What becomes of a run. -/
inductive RunResult where
  /-- The run ended, in this state. -/
  | ended (e : EndState)
  /-- No turn is left and BUSY = 1: the run has not ended. -/
  | running (s : State)
  /-- The model recorded a fault, so there is no end state. -/
  | stopped (f : Fault)
  /-- A step had no meaning, so there is no end state. -/
  | refused (r : Refusal)
deriving DecidableEq, Repr

/-- Steps until the run ends, at most `n` of them. -/
def runToEnd : Nat → State → RunResult
  | 0, s => if s.runEnded = true then .ended s.endState else .running s
  | n + 1, s =>
    if s.runEnded = true then .ended s.endState
    else
      match step s with
      | .next t => runToEnd n t
      | .fault f => .stopped f
      | .refused r => .refused r

/-- The run of the host program in the schedule (43_host_interface.md R189). Every step takes one turn, so as many steps as
turns settle it. -/
def hostRun (s : State) : RunResult := runToEnd s.schedule.length s

end Sys2Proof.Machine
end

