-- ==== Sys2Proof/Safety.lean ====
section
/-! DEFINITION. What every step keeps (State.Inv), what a step must not ask of the machine for it not to stop
(State.readsSpecified), and the frames the statements use. -/

namespace Sys2Proof.Machine

/-- The invariant of KSPC: from the rules of 10_state.md on each element, and from the ranges of 00_scope.md R8. -/
structure State.Inv (s : State) : Prop where
  /-- 00_scope.md R8. -/
  params : s.params.wf
  /-- The buffers keep their one form, and hold no byte outside `rx_buf[0..BUF_CAP-1]`, `TXPAY[0..255]`, `txf[0..258]`. -/
  rxBufWf : Memory.wf s.rxBuf
  txpayWf : Memory.wf s.txpay
  txfWf : Memory.wf s.txf
  rxBufBound : ∀ c ∈ s.rxBuf, c.1 < s.params.bufCap
  txpayBound : ∀ c ∈ s.txpay, c.1 < 256
  txfBound : ∀ c ∈ s.txf, c.1 < 259
  /-- 10_state.md R22: rx_state is not IDLE exactly while a receive runs. -/
  receiving : s.rxState ≠ .idle ↔ (s.busy = true ∧ s.op.isReceive = true)
  /-- 10_state.md R30: BUSY only while an operation that takes steps of the RXE or the TXE runs. -/
  busyOp : s.busy = true → s.op.isReceive = true ∨ s.op.isEncode = true
  /-- 10_state.md R20, R27. -/
  failCntRange : s.failCnt.toNat ≤ s.params.failCap
  /-- 10_state.md R20. -/
  rxIdxRange : s.rxIdx.toNat ≤ 257
  /-- 10_state.md R29. -/
  rxSizeRange : s.rxSize.toNat ≤ 255 + s.params.rxSizeBias
  /-- 10_state.md R25. -/
  idxBeforeLength : s.rxState = .awaitHeader ∨ s.rxState = .readLength → s.rxIdx = 0
  idxInPayload : s.rxState = .readPayload → 1 ≤ s.rxIdx.toNat ∧ s.rxIdx.toNat ≤ s.rxLen.toNat
  idxAtChecksum : s.rxState = .readChecksum → s.rxIdx.toNat = s.rxLen.toNat + 1
  /-- 10_state.md R24, R26: what a receive has taken of a frame stands in rx_buf, and the whole frame fits. -/
  frameSoFar : s.rxState = .readPayload ∨ s.rxState = .readChecksum →
    s.rxLen.toNat + 2 ≤ s.params.bufCap ∧ Memory.read s.rxBuf 0 = some s.rxLen ∧
      ∀ i, i < s.rxIdx.toNat → (Memory.read s.rxBuf i).isSome = true
  /-- 10_state.md R23: the header window. -/
  windowClosed : s.rxState = .readLength ∨ s.rxState = .readPayload ∨ s.rxState = .readChecksum → s.hdrAa = false
  windowOpen : s.rxState = .awaitHeader → s.hdrAa = true → s.rxTaken.getLast? = some (.byte 0xAA#8)
  /-- 10_state.md R28: RXVALID is cleared when a receive starts, and while it is 1 rx_buf holds a frame whose checksum
  matches. -/
  validNotReceiving : s.rxValid = true → s.rxState = .idle
  validFrame : s.rxValid = true → ∃ (L : Byte) (P : List Byte),
    L.toNat + 2 ≤ s.params.bufCap ∧ Memory.read s.rxBuf 0 = some L ∧ Memory.readList s.rxBuf 1 L.toNat = some P ∧
      Memory.read s.rxBuf (L.toNat + 1) = some (cks (L :: P))
  /-- 10_state.md R20, R35. -/
  txRange : s.txIdx.toNat ≤ s.txN.toNat ∧ s.txN.toNat ≤ 259
  /-- 41_encoder.md R130-R132: while an encode runs, txf holds a frame, not all of it sent, and its bytes before tx_idx are
  the last the wire took. -/
  sending : s.busy = true → s.op.isEncode = true → ∃ (P : List Byte) (before : List Byte),
    P.length ≤ 255 ∧ s.txN.toNat = P.length + 4 ∧ s.txIdx.toNat < s.txN.toNat ∧
      Memory.readList s.txf 0 (P.length + 4) = some (frame P) ∧
      s.wire = before ++ (frame P).take s.txIdx.toNat

/-- The next turn asks for nothing that is unspecified (93_implementation_defined.md I1): a host read has a value, and an
ENC_RAW that is dispatched sends only TXPAY bytes that were written. -/
def State.readsSpecified (s : State) : Prop :=
  ∀ p ts, s.schedule = .host p :: ts → p.hReq = true →
    (p.hWe = false → ∃ w, view p.hWidx s = .ok w) ∧
    (decodeAccess p = .ok .encRaw → s.busy = false → ∃ P, rawPayload s = some P)

/-! ### Frames -/

/-- Every byte of a buffer outside `a .. a+n-1` reads as before. -/
def Memory.sameOutside (m m' : Memory) (a n : Nat) : Prop :=
  ∀ i, i < a ∨ a + n ≤ i → Memory.read m' i = Memory.read m i

/-- Receive state and snapshot, which sending never changes (41_encoder.md R134). -/
def State.sameReceive (s t : State) : Prop :=
  t.rxState = s.rxState ∧ t.hdrAa = s.hdrAa ∧ t.rxLen = s.rxLen ∧ t.rxIdx = s.rxIdx ∧ t.rxBuf = s.rxBuf ∧
    t.failCnt = s.failCnt ∧ t.rxValid = s.rxValid ∧ t.rxSize = s.rxSize ∧ t.snap = s.snap ∧ t.snapValid = s.snapValid

/-- The operand registers and TXPAY, which only the host writes (43_host_interface.md R181). -/
def State.sameOperands (s t : State) : Prop :=
  t.arg0 = s.arg0 ∧ t.arg1 = s.arg1 ∧ t.kp = s.kp ∧ t.ki = s.ki ∧ t.kd = s.kd ∧ t.txpay = s.txpay

/-- The transmit buffer and its counters. -/
def State.sameTransmit (s t : State) : Prop := t.txf = s.txf ∧ t.txN = s.txN ∧ t.txIdx = s.txIdx

/-- The parameters, the streams and the host port, which an operation's dispatch does not touch. -/
def State.sameOutside (s t : State) : Prop :=
  t.params = s.params ∧ t.rxStream = s.rxStream ∧ t.rxTaken = s.rxTaken ∧ t.wire = s.wire ∧ t.hRdata = s.hRdata ∧
    t.schedule = s.schedule

/-- What the dispatch of an encode leaves beside the bytes of its frame of `n` bytes: the operation runs, nothing is sent
yet, and everything but the transmit buffer's first `n` bytes is as before (41_encoder.md R130, R134). -/
def State.startsSending (s t : State) (o : OpCode) (n : Nat) : Prop :=
  t.op = o ∧ t.busy = true ∧ t.txN.toNat = n ∧ t.txIdx = 0 ∧ t.code = s.code ∧
    State.sameReceive s t ∧ State.sameOperands s t ∧ State.sameOutside s t ∧ Memory.sameOutside s.txf t.txf 0 n

/-! ### Turns of the receive engine -/

/-- The RXE is next, it is enabled, and `e` is the oldest event offered (40_receiver.md R101). -/
def State.taking (s : State) (ts : List Turn) (e : RxEvent) (es : List RxEvent) : Prop :=
  s.schedule = .rxe :: ts ∧ s.busy = true ∧ s.op.isReceive = true ∧ s.rxStream = e :: es

/-- The state with that event consumed. -/
def State.taken (s : State) (ts : List Turn) (e : RxEvent) (es : List RxEvent) : State :=
  { s with schedule := ts, rxStream := es, rxTaken := s.rxTaken ++ [e] }

end Sys2Proof.Machine
end

