-- ==== Sys2Proof/Certificates/Slice0/Obligations.lean ====
section
/-! DEFINITION. The statements for the provers. Each docstring names the rules of spec/ it comes from. -/

open Sys2Proof Sys2Proof.Machine

/-! ### Encoding -/

/-- 30_encoding.md R82, R83 and 20_memory.md R55: words of the opcode table, written out, and the operation each selects. -/
def Obligations.CmdWordsDecode : Prop :=
  decodeAccess ⟨true, true, 0x000, 0x00000001⟩ = .ok .poll ∧
  decodeAccess ⟨true, true, 0x000, 0x00000002⟩ = .ok .recv ∧
  decodeAccess ⟨true, true, 0x000, 0x00000003⟩ = .ok .decode ∧
  decodeAccess ⟨true, true, 0x000, 0x00000004⟩ = .ok .encRaw ∧
  decodeAccess ⟨true, true, 0x000, 0xFFFFFFF5⟩ = .ok .encDrive ∧
  decodeAccess ⟨true, true, 0x000, 0x00000006⟩ = .ok .encPidDefault ∧
  decodeAccess ⟨true, true, 0x000, 0x00000007⟩ = .ok .encPidUser ∧
  decodeAccess ⟨true, true, 0x000, 0x00000008⟩ = .ok .encSound ∧
  decodeAccess ⟨true, true, 0x000, 0x00000009⟩ = .ok .encReqinfo ∧
  decodeAccess ⟨true, true, 0x000, 0x00000000⟩ = .ok .illegal0 ∧
  decodeAccess ⟨true, true, 0x000, 0x0000000B⟩ = .ok (.illegalAB 0xB#4) ∧
  decodeAccess ⟨true, true, 0x000, 0x0000000F⟩ = .ok (.illegalCF 0xF#4)

/-- Decode and encode agree, for every well-formed instruction and every code an ILLEGAL row admits, and the other way for
every CMD word, up to the ignored bits 31:4 (30_encoding.md R82, R83, 20_memory.md R55). -/
def Obligations.DecodeEncodeAgree : Prop :=
  (∀ i : Instr, i.wf = true →
    decodeAccess (encode i) = .ok i ∧ decodeTableWord 32 (encodeWord i).toNat = some i) ∧
  (∀ w : Word, ∃ i : Instr, i.wf = true ∧ decodeAccess (cmdWrite w) = .ok i ∧ encodeWord i = w &&& 0x0000000F#32)

/-- Every CMD word lies in exactly one row of the opcode table, that of the instruction it decodes to (30_encoding.md R82,
R83). -/
def Obligations.OpcodeRowsPartition : Prop :=
  ∀ w : Word,
    opcodeRow (decodeCmd w) ∈ opcodeRows ∧
    w &&& (opcodeRow (decodeCmd w)).mask = (opcodeRow (decodeCmd w)).value ∧
    ∀ r ∈ opcodeRows, w &&& r.mask = r.value → r = opcodeRow (decodeCmd w)

/-- 20_memory.md R55: a CMD write sends the code w[3:0] to the dispatcher, bits 31:4 are ignored, and a read of CMD returns
0. -/
def Obligations.CmdHighBitsIgnored : Prop :=
  (∀ (s : State) (w : Word) (ts : List Turn),
    step (State.withSchedule (.host (cmdWrite w) :: ts) s) = exec (decodeCmd w) (State.withSchedule ts s) ∧
    encodeCode (decodeCmd w) = w.extractLsb' 0 4) ∧
  (∀ (s : State) (w w' : Word) (ts : List Turn), (∀ k : Nat, k < 4 → w.getLsbD k = w'.getLsbD k) →
    step (State.withSchedule (.host (cmdWrite w) :: ts) s) = step (State.withSchedule (.host (cmdWrite w') :: ts) s)) ∧
  (∀ (s : State) (d : Word) (ts : List Turn),
    step (State.withSchedule (.host ⟨true, false, 0x000, d⟩ :: ts) s) =
      .next { s with schedule := ts, hRdata := 0x00000000 })

/-! ### Steps and dispatch -/

/-- A step at a host access that decodes to `i` is exec of `i`, with that turn taken off the schedule (10_state.md R21,
43_host_interface.md R183). -/
def Obligations.StepRunsDecodedInstruction : Prop :=
  ∀ (s : State) (p : HostPins) (ts : List Turn) (i : Instr),
    s.schedule = .host p :: ts → decodeAccess p = .ok i → step s = exec i { s with schedule := ts }

/-- With no turn left, or a turn of an agent that has no enabled step, nothing but the schedule changes (10_state.md R21,
R39, R40). That a disabled turn is skipped is the model's own choice (notes/assumptions/1, 14). -/
def Obligations.DisabledTurnsChangeNothing : Prop :=
  ∀ (s : State) (ts : List Turn),
    (s.schedule = [] → step s = .next s) ∧
    (s.schedule = .rxe :: ts → ¬ (s.busy = true ∧ s.op.isReceive = true) ∨ s.rxStream = [] →
      step s = .next { s with schedule := ts }) ∧
    (∀ p : TxPins, s.schedule = .txe p :: ts →
      ¬ (s.busy = true ∧ s.op.isEncode = true) ∨ (p.txReady = false ∧ p.txErr = false) →
      step s = .next { s with schedule := ts }) ∧
    (∀ p : HostPins, s.schedule = .host p :: ts → p.hReq = false → step s = .next { s with schedule := ts })

/-- 43_host_interface.md R183, R186: a write of w to CMD does nothing while BUSY = 1, and else runs the operation w[3:0]
selects, or reports an illegal code and changes nothing else. -/
def Obligations.CmdWriteDispatches : Prop :=
  ∀ (s : State) (w : Word) (ts : List Turn), s.schedule = .host ⟨true, true, 0x000, w⟩ :: ts →
    (s.busy = true → step s = .next { s with schedule := ts }) ∧
    (s.busy = false →
      (w.toNat % 16 = 0x1 → step s = exec .poll { s with schedule := ts }) ∧
      (w.toNat % 16 = 0x2 → step s = exec .recv { s with schedule := ts }) ∧
      (w.toNat % 16 = 0x3 → step s = exec .decode { s with schedule := ts }) ∧
      (w.toNat % 16 = 0x4 → step s = exec .encRaw { s with schedule := ts }) ∧
      (w.toNat % 16 = 0x5 → step s = exec .encDrive { s with schedule := ts }) ∧
      (w.toNat % 16 = 0x6 → step s = exec .encPidDefault { s with schedule := ts }) ∧
      (w.toNat % 16 = 0x7 → step s = exec .encPidUser { s with schedule := ts }) ∧
      (w.toNat % 16 = 0x8 → step s = exec .encSound { s with schedule := ts }) ∧
      (w.toNat % 16 = 0x9 → step s = exec .encReqinfo { s with schedule := ts }) ∧
      (w.toNat % 16 = 0x0 ∨ 0xA ≤ w.toNat % 16 → step s = .next { s with schedule := ts, code := .illegalOp }))

/-- 60_exceptions.md R205: BUSY = 1 drops a CMD write before its code is looked at; then the code's legality is checked;
for DECODE, RXVALID = 0 is tested before the layout. -/
def Obligations.CmdChecksInOrder : Prop :=
  ∀ s : State,
    (s.busy = true → ∀ w : Word, exec (decodeCmd w) s = .next s) ∧
    (s.busy = false → ∀ w : Word, (w.toNat % 16 = 0x0 ∨ 0xA ≤ w.toNat % 16) →
      exec (decodeCmd w) s = .next { s with code := .illegalOp }) ∧
    (s.busy = false → s.rxValid = false → exec .decode s = .next { s with op := .decode, code := .noFrame })

/-- 43_host_interface.md R186: an illegal code with BUSY = 0 sets CODE to E_ILLEGAL_OP and changes nothing else. -/
def Obligations.IllegalCodesReport : Prop :=
  ∀ s : State, s.busy = false →
    exec .illegal0 s = .next { s with code := .illegalOp } ∧
    (∀ c : BitVec 4, exec (.illegalAB c) s = .next { s with code := .illegalOp }) ∧
    (∀ c : BitVec 4, exec (.illegalCF c) s = .next { s with code := .illegalOp })

/-- The dispatch of RECV and POLL with BUSY = 0, and that it writes nothing else (40_receiver.md R100, 42_sensor_codec.md
R166). -/
def Obligations.ReceiveStarts : Prop :=
  ∀ s : State, s.busy = false →
    exec .recv s = .next
      { s with op := .recv, busy := true, rxValid := false, rxState := .awaitHeader, hdrAa := false, rxIdx := 0 } ∧
    exec .poll s = .next
      { s with op := .poll, busy := true, rxValid := false, rxState := .awaitHeader, hdrAa := false, rxIdx := 0 }

/-! ### The Sensor Codec -/

/-- 42_sensor_codec.md R165: DECODE with BUSY = 0, in its three cases, and that it writes nothing else. -/
def Obligations.DecodeCommandResult : Prop :=
  ∀ s : State, s.busy = false →
    (s.rxValid = false → exec .decode s = .next { s with op := .decode, code := .noFrame }) ∧
    (∀ (L : Byte) (P : List Byte), s.rxValid = true → Memory.read s.rxBuf 0 = some L →
      Memory.readList s.rxBuf 1 L.toNat = some P →
      ((∃ f : SnapField, L.toNat < descOffset (layoutDesc s.params.layout f) + descWidth (layoutDesc s.params.layout f)) →
        exec .decode s = .next { s with op := .decode, code := .decodeShort }) ∧
      ((∀ f : SnapField, descOffset (layoutDesc s.params.layout f) + descWidth (layoutDesc s.params.layout f) ≤ L.toNat) →
        exec .decode s = .next { s with
          op := .decode
          code := .ok
          snap := snapshotOf s.params.layout P
          snapValid := true }))

/-- 42_sensor_codec.md R165: DECODE twice gives the same, and so does any number of times. -/
def Obligations.DecodeRepeats : Prop :=
  ∀ s t : State, s.busy = false → exec .decode s = .next t → exec .decode t = .next t

/-- 42_sensor_codec.md R160: the value of every descriptor form over the payload bytes it names, and where those bytes
stand in rx_buf. -/
def Obligations.DescriptorValues : Prop :=
  ∀ (P : List Byte) (o : Nat),
    (∀ (k : Fin 8) (h : o < P.length),
      descValue (.bit o k) P = if P[o].getLsbD k.val = true then 1#32 else 0#32) ∧
    (∀ h : o < P.length, (descValue (.u8 o) P).toNat = P[o].toNat) ∧
    (∀ h : o < P.length, (descValue (.s8 o) P).toInt = P[o].toInt) ∧
    (∀ h : o + 1 < P.length, (descValue (.u16 o) P).toNat = P[o].toNat + 256 * P[o + 1].toNat) ∧
    (∀ h : o + 1 < P.length,
      (descValue (.s16 o) P).toInt =
        if P[o].toNat + 256 * P[o + 1].toNat < 32768 then ((P[o].toNat + 256 * P[o + 1].toNat : Nat) : Int)
        else ((P[o].toNat + 256 * P[o + 1].toNat : Nat) : Int) - 65536) ∧
    (∀ h : o + 3 < P.length,
      (descValue (.u32 o) P).toNat =
        P[o].toNat + 2 ^ 8 * P[o + 1].toNat + 2 ^ 16 * P[o + 2].toNat + 2 ^ 24 * P[o + 3].toNat) ∧
    descValue .absent P = 0#32 ∧
    ∀ s : State, framePayload s = some P → ∀ h : o < P.length, Memory.read s.rxBuf (1 + o) = some P[o]

/-- 42_sensor_codec.md R161: the width of each descriptor, and when it fits a payload of length L. -/
def Obligations.DescriptorFit : Prop :=
  ∀ (o L : Nat) (k : Fin 8),
    (descWidth (.bit o k) = 1 ∧ descWidth (.u8 o) = 1 ∧ descWidth (.s8 o) = 1 ∧ descWidth (.u16 o) = 2 ∧
      descWidth (.s16 o) = 2 ∧ descWidth (.u32 o) = 4 ∧ descWidth .absent = 0) ∧
    (descFits (.bit o k) L = true ↔ o + 1 ≤ L) ∧ (descFits (.u8 o) L = true ↔ o + 1 ≤ L) ∧
    (descFits (.s8 o) L = true ↔ o + 1 ≤ L) ∧ (descFits (.u16 o) L = true ↔ o + 2 ≤ L) ∧
    (descFits (.s16 o) L = true ↔ o + 2 ≤ L) ∧ (descFits (.u32 o) L = true ↔ o + 4 ≤ L) ∧
    descFits .absent L = true

/-- 42_sensor_codec.md R163: the decode tests every field of the layout, the sixteen EXTRA fields with them, and each
snapshot field takes the whole value of its own descriptor. -/
def Obligations.SnapshotTakesEveryField : Prop :=
  ∀ (l : SensorLayout) (P : List Byte) (L : Nat),
    (layoutFits l L = true ↔ ∀ f : SnapField, descFits (layoutDesc l f) L = true) ∧
    (BitVec.ofBool (snapshotOf l P).btn0).setWidth 32 = descValue (layoutDesc l .btn0) P ∧
    (BitVec.ofBool (snapshotOf l P).btn1).setWidth 32 = descValue (layoutDesc l .btn1) P ∧
    (BitVec.ofBool (snapshotOf l P).btn2).setWidth 32 = descValue (layoutDesc l .btn2) P ∧
    (BitVec.ofBool (snapshotOf l P).bumpL).setWidth 32 = descValue (layoutDesc l .bumpL) P ∧
    (BitVec.ofBool (snapshotOf l P).bumpC).setWidth 32 = descValue (layoutDesc l .bumpC) P ∧
    (BitVec.ofBool (snapshotOf l P).bumpR).setWidth 32 = descValue (layoutDesc l .bumpR) P ∧
    (BitVec.ofBool (snapshotOf l P).dropL).setWidth 32 = descValue (layoutDesc l .dropL) P ∧
    (BitVec.ofBool (snapshotOf l P).dropC).setWidth 32 = descValue (layoutDesc l .dropC) P ∧
    (BitVec.ofBool (snapshotOf l P).dropR).setWidth 32 = descValue (layoutDesc l .dropR) P ∧
    (snapshotOf l P).encL.setWidth 32 = descValue (layoutDesc l .encL) P ∧
    (snapshotOf l P).encR.setWidth 32 = descValue (layoutDesc l .encR) P ∧
    ∀ i : Fin 16, (snapshotOf l P).extra[i] = descValue (layoutDesc l (.extra i)) P

/-- 42_sensor_codec.md R162, 93_implementation_defined.md I6, over the entries of the table: a layout is loaded exactly when
each flag has an entry BIT or ABSENT, each encoder an entry U16 or ABSENT, each EXTRA some entry, and no field is named
twice; the layout loaded has exactly the table's entries. That a table with a field named twice is refused is the model's
choice (notes/assumptions/4). -/
def Obligations.LayoutsAccepted : Prop :=
  ∀ raw : RawLayout,
    ((∃ l, acceptLayout raw = some l) ↔
      (raw.map Prod.fst).Nodup ∧
      (∀ f, f ∈ [SnapField.btn0, .btn1, .btn2, .bumpL, .bumpC, .bumpR, .dropL, .dropC, .dropR] →
        (f, .absent) ∈ raw ∨ ∃ o k, (f, .bit o k) ∈ raw) ∧
      (∀ f, f ∈ [SnapField.encL, .encR] → (f, .absent) ∈ raw ∨ ∃ o, (f, .u16 o) ∈ raw) ∧
      (∀ i : Fin 16, ∃ d, (.extra i, d) ∈ raw)) ∧
    (∀ (l : SensorLayout) (f : SnapField) (d : Descriptor), acceptLayout raw = some l →
      ((f, d) ∈ raw ↔ d = layoutDesc l f)) ∧
    (∀ (f : SnapField) (d d' : Descriptor) (pre mid post : RawLayout),
      raw = pre ++ [(f, d)] ++ mid ++ [(f, d')] ++ post → acceptLayout raw = none)

/-! ### The Frame Encoder -/

/-- 00_scope.md R10, R12: the checksum is the exclusive or of all bytes, 0x00 of none, and splits over a concatenation. -/
def Obligations.ChecksumIsXor : Prop :=
  cks [] = 0x00#8 ∧ (∀ bs : List Byte, cks bs = bs.foldl (· ^^^ ·) 0x00#8) ∧
    ∀ as bs : List Byte, cks (as ++ bs) = cks as ^^^ cks bs

/-- 30_encoding.md R76, 41_encoder.md R136: ENC_DRIVE with BUSY = 0 composes the 10 bytes of a Drive frame, and what it
leaves alone. -/
def Obligations.EncDriveComposes : Prop :=
  ∀ s : State, s.busy = false → ∃ t, exec .encDrive s = .next t ∧
    Memory.readList t.txf 0 10 = some
      [0xAA#8, 0x55#8, 0x06#8, 0x01#8, 0x04#8, s.arg0.extractLsb' 0 8, s.arg0.extractLsb' 8 8,
        s.arg1.extractLsb' 0 8, s.arg1.extractLsb' 8 8,
        0x03#8 ^^^ s.arg0.extractLsb' 0 8 ^^^ s.arg0.extractLsb' 8 8 ^^^ s.arg1.extractLsb' 0 8 ^^^
          s.arg1.extractLsb' 8 8] ∧
    State.startsSending s t .encDrive 10

/-- 30_encoding.md R77, 41_encoder.md R137: ENC_PID_DEFAULT with BUSY = 0 always composes the same 19 bytes. -/
def Obligations.EncPidDefaultComposes : Prop :=
  ∀ s : State, s.busy = false → ∃ t, exec .encPidDefault s = .next t ∧
    Memory.readList t.txf 0 19 = some
      [0xAA#8, 0x55#8, 0x0F#8, 0x0D#8, 0x0D#8, 0x00#8, 0x00#8, 0x00#8, 0x00#8, 0x00#8, 0x00#8, 0x00#8, 0x00#8, 0x00#8,
        0x00#8, 0x00#8, 0x00#8, 0x00#8, 0x0F#8] ∧
    State.startsSending s t .encPidDefault 19

/-- 30_encoding.md R78, 41_encoder.md R138: ENC_PID_USER with BUSY = 0 composes KP, KI and KD, little-endian. -/
def Obligations.EncPidUserComposes : Prop :=
  ∀ s : State, s.busy = false → ∃ t c, exec .encPidUser s = .next t ∧
    Memory.readList t.txf 0 19 = some
      [0xAA#8, 0x55#8, 0x0F#8, 0x0D#8, 0x0D#8, 0x01#8,
        s.kp.extractLsb' 0 8, s.kp.extractLsb' 8 8, s.kp.extractLsb' 16 8, s.kp.extractLsb' 24 8,
        s.ki.extractLsb' 0 8, s.ki.extractLsb' 8 8, s.ki.extractLsb' 16 8, s.ki.extractLsb' 24 8,
        s.kd.extractLsb' 0 8, s.kd.extractLsb' 8 8, s.kd.extractLsb' 16 8, s.kd.extractLsb' 24 8, c] ∧
    c = 0x0F#8 ^^^ 0x0D#8 ^^^ 0x0D#8 ^^^ 0x01#8 ^^^
        s.kp.extractLsb' 0 8 ^^^ s.kp.extractLsb' 8 8 ^^^ s.kp.extractLsb' 16 8 ^^^ s.kp.extractLsb' 24 8 ^^^
        s.ki.extractLsb' 0 8 ^^^ s.ki.extractLsb' 8 8 ^^^ s.ki.extractLsb' 16 8 ^^^ s.ki.extractLsb' 24 8 ^^^
        s.kd.extractLsb' 0 8 ^^^ s.kd.extractLsb' 8 8 ^^^ s.kd.extractLsb' 16 8 ^^^ s.kd.extractLsb' 24 8 ∧
    State.startsSending s t .encPidUser 19

/-- 30_encoding.md R79, 41_encoder.md R139: ENC_SOUND with BUSY = 0 composes any byte ARG0[7:0] unchanged. -/
def Obligations.EncSoundComposes : Prop :=
  ∀ s : State, s.busy = false → ∃ t, exec .encSound s = .next t ∧
    Memory.readList t.txf 0 7 = some
      [0xAA#8, 0x55#8, 0x03#8, 0x04#8, 0x01#8, s.arg0.extractLsb' 0 8,
        0x03#8 ^^^ 0x04#8 ^^^ 0x01#8 ^^^ s.arg0.extractLsb' 0 8] ∧
    State.startsSending s t .encSound 7

/-- 30_encoding.md R80, 41_encoder.md R141: ENC_REQINFO with BUSY = 0 always composes the same 8 bytes. -/
def Obligations.EncReqinfoComposes : Prop :=
  ∀ s : State, s.busy = false → ∃ t, exec .encReqinfo s = .next t ∧
    Memory.readList t.txf 0 8 = some [0xAA#8, 0x55#8, 0x04#8, 0x09#8, 0x02#8, 0x0B#8, 0x00#8, 0x04#8] ∧
    State.startsSending s t .encReqinfo 8

/-- 41_encoder.md R132, R135, 30_encoding.md R70: ENC_RAW with BUSY = 0 composes TXPAY[0 .. n-1], n = ARG0[7:0], where
those bytes have been written. -/
def Obligations.EncRawComposes : Prop :=
  ∀ (s : State) (P : List Byte), s.busy = false →
    Memory.readList s.txpay 0 (s.arg0.toNat % 256) = some P →
    ∃ t, exec .encRaw s = .next t ∧
      Memory.readList t.txf 0 (s.arg0.toNat % 256 + 4) = some
        ([0xAA#8, 0x55#8, s.arg0.extractLsb' 0 8] ++ P ++ [cks (s.arg0.extractLsb' 0 8 :: P)]) ∧
      State.startsSending s t .encRaw (s.arg0.toNat % 256 + 4)

/-- 41_encoder.md R135, 93_implementation_defined.md I1: ENC_RAW stops the model where it would send a TXPAY byte never
written since reset, and only there. -/
def Obligations.EncRawStopsOnUnwritten : Prop :=
  ∀ s : State, s.busy = false →
    ((∃ i, i < s.arg0.toNat % 256 ∧ Memory.read s.txpay i = none) ↔ exec .encRaw s = .fault .txpayUnspecified)

/-- 41_encoder.md R134: sending never changes receive state: not the dispatch of an encode, not a step of the TXE; and
while an encode runs rx_ready is 0 and the ENV keeps what it offers. -/
def Obligations.SendingKeepsReceiveState : Prop :=
  ∀ s t : State, s.Inv →
    (∀ i, i ∈ [Instr.encRaw, .encDrive, .encPidDefault, .encPidUser, .encSound, .encReqinfo] → exec i s = .next t →
      State.sameReceive s t) ∧
    (∀ (p : TxPins) (ts : List Turn), s.schedule = .txe p :: ts → step s = .next t → State.sameReceive s t) ∧
    (s.busy = true → s.op.isEncode = true → rxReady s = false ∧
      ∀ ts, s.schedule = .rxe :: ts → step s = .next { s with schedule := ts })

/-- 41_encoder.md R131, R133: a step of the TXE hands over one byte, in frame order; the last Accept ends the operation
with OK, an Err ends it with E_TX_IO and the byte counts as not sent; tx_err wins over tx_ready (10_state.md R40). -/
def Obligations.TransmitStep : Prop :=
  ∀ (s : State) (p : TxPins) (ts : List Turn) (b : Byte),
    s.schedule = .txe p :: ts → s.busy = true → s.op.isEncode = true →
    Memory.read s.txf s.txIdx.toNat = some b →
    (p.txErr = true →
      step s = .next { s with schedule := ts, code := .txIo, busy := false, rxState := .idle }) ∧
    (p.txErr = false → p.txReady = true →
      (s.txIdx + 1 = s.txN →
        step s = .next { s with
          schedule := ts
          wire := s.wire ++ [b]
          txIdx := s.txIdx + 1
          code := .ok
          busy := false
          rxState := .idle }) ∧
      (s.txIdx + 1 ≠ s.txN →
        step s = .next { s with schedule := ts, wire := s.wire ++ [b], txIdx := s.txIdx + 1 }))

/-! ### The Framing Receiver -/

/-- 10_state.md R39: the ENV's pins offer one event at most, rx_err wins over rx_valid, and what is offered waits behind
what was offered before; nothing else changes. That it waits in a list is the model's form (notes/assumptions/10, 13). -/
def Obligations.EnvironmentOffers : Prop :=
  ∀ (s : State) (p : RxPins) (ts : List Turn), s.schedule = .env p :: ts →
    (p.rxErr = true → step s = .next { s with schedule := ts, rxStream := s.rxStream ++ [.err] }) ∧
    (p.rxErr = false → p.rxValid = true →
      step s = .next { s with schedule := ts, rxStream := s.rxStream ++ [.byte p.rxByte] }) ∧
    (p.rxErr = false → p.rxValid = false → step s = .next { s with schedule := ts })

/-- 40_receiver.md R102: AWAIT_HEADER on a byte. -/
def Obligations.HeaderWindow : Prop :=
  ∀ (s : State) (ts : List Turn) (b : Byte) (es : List RxEvent),
    State.taking s ts (.byte b) es → s.rxState = .awaitHeader →
    (s.hdrAa = true → b = 0x55#8 →
      step s = .next { State.taken s ts (.byte b) es with rxState := .readLength, hdrAa := false }) ∧
    (s.hdrAa = false ∨ b ≠ 0x55#8 →
      (b = 0xAA#8 → step s = .next { State.taken s ts (.byte b) es with hdrAa := true }) ∧
      (b ≠ 0xAA#8 → step s = .next { State.taken s ts (.byte b) es with hdrAa := false }))

/-- 40_receiver.md R103, R109: READ_LENGTH on a byte; a frame that does not fit the buffer ends the receive before any
write to rx_buf, and at BUF_CAP = 257 every frame fits. -/
def Obligations.LengthByte : Prop :=
  ∀ (s : State) (ts : List Turn) (b : Byte) (es : List RxEvent),
    State.taking s ts (.byte b) es → s.rxState = .readLength →
    (s.params.bufCap < b.toNat + 2 →
      step s = .next { State.taken s ts (.byte b) es with
        rxLen := b
        code := .overrun
        busy := false
        rxState := .idle }) ∧
    (b.toNat + 2 ≤ s.params.bufCap →
      step s = .next { State.taken s ts (.byte b) es with
        rxLen := b
        rxBuf := Memory.write s.rxBuf 0 b
        rxIdx := 1
        rxState := if b = 0x00#8 then .readChecksum else .readPayload }) ∧
    (s.params.bufCap = 257 → b.toNat + 2 ≤ s.params.bufCap)

/-- 40_receiver.md R104: READ_PAYLOAD on a byte, in a state a receive reaches. -/
def Obligations.PayloadByte : Prop :=
  ∀ (s : State) (ts : List Turn) (b : Byte) (es : List RxEvent),
    s.Inv → State.taking s ts (.byte b) es → s.rxState = .readPayload →
    step s = .next { State.taken s ts (.byte b) es with
      rxBuf := Memory.write s.rxBuf s.rxIdx.toNat b
      rxIdx := s.rxIdx + 1
      rxState := if s.rxIdx.toNat = s.rxLen.toNat then .readChecksum else .readPayload }

/-- 40_receiver.md R105, R106, 42_sensor_codec.md R166: READ_CHECKSUM on the byte that equals the checksum of the length
byte and the payload, in a state a receive reaches: RECV ends with OK, POLL decodes in the same step. -/
def Obligations.ChecksumMatch : Prop :=
  ∀ (s : State) (ts : List Turn) (b : Byte) (es : List RxEvent) (P : List Byte),
    s.Inv → State.taking s ts (.byte b) es → s.rxState = .readChecksum →
    Memory.readList s.rxBuf 1 s.rxLen.toNat = some P → b = cks (s.rxLen :: P) →
    ∃ t, step s = .next t ∧
      t.failCnt = 0 ∧ t.rxValid = true ∧ t.rxSize.toNat = s.rxLen.toNat + s.params.rxSizeBias ∧ t.busy = false ∧
      t.rxState = .idle ∧ t.op = s.op ∧ t.rxLen = s.rxLen ∧ t.rxIdx = s.rxIdx ∧ t.hdrAa = s.hdrAa ∧
      t.rxBuf = Memory.write s.rxBuf (s.rxLen.toNat + 1) b ∧
      (s.op = .recv → t.code = .ok ∧ t.snap = s.snap ∧ t.snapValid = s.snapValid) ∧
      (s.op = .poll → layoutFits s.params.layout s.rxLen.toNat = false →
        t.code = .decodeShort ∧ t.snap = s.snap ∧ t.snapValid = s.snapValid) ∧
      (s.op = .poll → layoutFits s.params.layout s.rxLen.toNat = true →
        t.code = .ok ∧ t.snap = snapshotOf s.params.layout P ∧ t.snapValid = true) ∧
      State.sameOperands s t ∧ State.sameTransmit s t ∧ State.sameOutside (State.taken s ts (.byte b) es) t

/-- 40_receiver.md R107, R108, 60_exceptions.md R209: READ_CHECKSUM on any other byte: the count goes up, to FAIL_CAP at
most; at FAIL_CAP the receive ends with E_CKSUM_CAP, below it the receiver starts again in AWAIT_HEADER. -/
def Obligations.ChecksumMismatch : Prop :=
  ∀ (s : State) (ts : List Turn) (b : Byte) (es : List RxEvent) (P : List Byte),
    s.Inv → State.taking s ts (.byte b) es → s.rxState = .readChecksum →
    Memory.readList s.rxBuf 1 s.rxLen.toNat = some P → b ≠ cks (s.rxLen :: P) →
    (s.failCnt.toNat + 1 < s.params.failCap →
      step s = .next { State.taken s ts (.byte b) es with
        rxBuf := Memory.write s.rxBuf (s.rxLen.toNat + 1) b
        failCnt := s.failCnt + 1
        rxState := .awaitHeader
        hdrAa := false
        rxIdx := 0 }) ∧
    (s.params.failCap ≤ s.failCnt.toNat + 1 →
      step s = .next { State.taken s ts (.byte b) es with
        rxBuf := Memory.write s.rxBuf (s.rxLen.toNat + 1) b
        failCnt := BitVec.ofNat 8 s.params.failCap
        code := .cksumCap
        busy := false
        rxState := .idle })

/-- 40_receiver.md R110: an Err event ends the receive in any rx_state; fail_cnt, rx_buf, RXSIZE and hdr_aa keep their
values, RXVALID stays 0, and the next receive starts from AWAIT_HEADER. -/
def Obligations.ReceiveError : Prop :=
  ∀ (s : State) (ts : List Turn) (es : List RxEvent), State.taking s ts .err es →
    step s = .next { State.taken s ts .err es with code := .rxIo, busy := false, rxState := .idle } ∧
    (s.Inv → s.rxValid = false) ∧
    ∀ t i, step s = .next t → i = Instr.recv ∨ i = Instr.poll →
      ∃ u, exec i t = .next u ∧ u.busy = true ∧ u.rxState = .awaitHeader ∧ u.hdrAa = false ∧ u.rxIdx = 0

/-! ### The host register port -/

/-- 43_host_interface.md R180, 20_memory.md R64: a host read returns view(i) on h_rdata and writes nothing; where the word
is unspecified the model stops. -/
def Obligations.HostReadsOnlyLook : Prop :=
  ∀ (s : State) (p : HostPins) (ts : List Turn), s.schedule = .host p :: ts → p.hReq = true → p.hWe = false →
    (∀ w, view p.hWidx s = .ok w → step s = .next { s with schedule := ts, hRdata := w }) ∧
    (∀ f, view p.hWidx s = .error f → step s = .fault f)

/-- 43_host_interface.md R181: what a host write does, whatever BUSY is; a write to CMD is an instruction, and a write to any
other word has no effect. -/
def Obligations.HostWrites : Prop :=
  ∀ (s : State) (i : BitVec 10) (w : Word) (ts : List Turn), s.schedule = .host ⟨true, true, i, w⟩ :: ts →
    (i = 0x000#10 → step s = exec (decodeCmd w) { s with schedule := ts }) ∧
    (i = 0x002#10 → step s = .next { s with schedule := ts, arg0 := w.extractLsb' 0 16 }) ∧
    (i = 0x003#10 → step s = .next { s with schedule := ts, arg1 := w.extractLsb' 0 16 }) ∧
    (i = 0x004#10 → step s = .next { s with schedule := ts, kp := w }) ∧
    (i = 0x005#10 → step s = .next { s with schedule := ts, ki := w }) ∧
    (i = 0x006#10 → step s = .next { s with schedule := ts, kd := w }) ∧
    (∀ j : Nat, j < 64 → i.toNat = 0x040 + j →
      ∃ m, step s = .next { s with schedule := ts, txpay := m } ∧
        Memory.readList m (4 * j) 4 = some
          [w.extractLsb' 0 8, w.extractLsb' 8 8, w.extractLsb' 16 8, w.extractLsb' 24 8] ∧
        Memory.sameOutside s.txpay m (4 * j) 4) ∧
    (i.toNat ≠ 0x000 → (i.toNat < 0x002 ∨ 0x006 < i.toNat) → (i.toNat < 0x040 ∨ 0x07F < i.toNat) →
      step s = .next { s with schedule := ts })

/-- 20_memory.md R56: a TXPAY word holds TXPAY[4j+k] in bits 8k+7:8k; a write writes all four bytes and a read returns all
four. -/
def Obligations.TxpayWindow : Prop :=
  ∀ (s : State) (j : Nat) (i : BitVec 10), j < 64 → i.toNat = 0x040 + j →
    (∀ w : Word, view i (hostWrite i w s) = .ok w) ∧
    (∀ b0 b1 b2 b3 : Byte, Memory.readList s.txpay (4 * j) 4 = some [b0, b1, b2, b3] →
      ∃ w, view i s = .ok w ∧ w.extractLsb' 0 8 = b0 ∧ w.extractLsb' 8 8 = b1 ∧ w.extractLsb' 16 8 = b2 ∧
        w.extractLsb' 24 8 = b3) ∧
    (∀ k, k < 4 → Memory.read s.txpay (4 * j + k) = none → view i s = .error .txpayUnspecified)

/-- 20_memory.md R57: an RXBUF word holds rx_buf[4j+k] in bits 8k+7:8k, a position at or above BUF_CAP reads 0x00, and a
byte no receive has written since reset is unspecified: the model stops. -/
def Obligations.RxbufWindow : Prop :=
  ∀ (s : State) (j : Nat) (i : BitVec 10), j ≤ 64 → i.toNat = 0x080 + j →
    (∀ w, view i s = .ok w → ∀ k, k < 4 →
      (s.params.bufCap ≤ 4 * j + k → w.extractLsb' (8 * k) 8 = 0x00#8) ∧
      (4 * j + k < s.params.bufCap → Memory.read s.rxBuf (4 * j + k) = some (w.extractLsb' (8 * k) 8))) ∧
    ((∀ k, k < 4 → 4 * j + k < s.params.bufCap → (Memory.read s.rxBuf (4 * j + k)).isSome = true) →
      ∃ w, view i s = .ok w) ∧
    (∀ k, k < 4 → 4 * j + k < s.params.bufCap → Memory.read s.rxBuf (4 * j + k) = none →
      view i s = .error .rxBufUnspecified)

/-- 20_memory.md R53, 10_state.md R22, 60_exceptions.md R200: every field of STATUS, with its reserved bits; a read of it has
no side effect (but for h_rdata, which the port shows) and no write changes anything. -/
def Obligations.StatusFields : Prop :=
  ∀ s : State, ∃ w, view 0x001#10 s = .ok w ∧
    (∀ (d : Word) (ts : List Turn),
      step (State.withSchedule (.host ⟨true, false, 0x001#10, d⟩ :: ts) s) = .next { s with schedule := ts, hRdata := w } ∧
      step (State.withSchedule (.host ⟨true, true, 0x001#10, d⟩ :: ts) s) = .next { s with schedule := ts }) ∧
    w.getLsbD 0 = s.busy ∧ w.getLsbD 1 = s.rxValid ∧ w.getLsbD 2 = s.snapValid ∧ w.getLsbD 3 = false ∧
    (w.extractLsb' 4 4).toNat = (match s.code with
      | .ok => 0 | .rxIo => 1 | .cksumCap => 2 | .txIo => 3 | .overrun => 4 | .decodeShort => 5 | .noFrame => 6
      | .illegalOp => 7) ∧
    (w.extractLsb' 8 3).toNat = (match s.rxState with
      | .idle => 0 | .awaitHeader => 1 | .readLength => 2 | .readPayload => 3 | .readChecksum => 4) ∧
    w.extractLsb' 11 5 = 0 ∧ w.extractLsb' 16 8 = s.failCnt ∧
    (w.extractLsb' 24 4).toNat = (match s.op with
      | .noOp => 0 | .poll => 1 | .recv => 2 | .decode => 3 | .encRaw => 4 | .encDrive => 5 | .encPidDefault => 6
      | .encPidUser => 7 | .encSound => 8 | .encReqinfo => 9) ∧
    w.extractLsb' 28 4 = 0

/-- 20_memory.md R54: CONFIG reports FAIL_CAP, BUF_CAP and RX_SIZE_BIAS, its other bits are 0, and no step changes a
parameter. -/
def Obligations.ConfigConstant : Prop :=
  (∀ s t : State, step s = .next t → t.params = s.params) ∧
  (∀ s : State, s.params.wf → ∃ w, view 0x008#10 s = .ok w ∧
    (w.extractLsb' 0 8).toNat = s.params.failCap ∧ (w.extractLsb' 8 9).toNat = s.params.bufCap ∧
    (w.extractLsb' 17 2).toNat = s.params.rxSizeBias ∧ w.extractLsb' 19 13 = 0)

/-- 20_memory.md R52: the operand, RXSIZE and snapshot words, with their reserved bits 0, and that the snapshot words are
unspecified while SNAPVALID = 0 (43_host_interface.md R180). -/
def Obligations.RegisterViews : Prop :=
  ∀ s : State,
    view 0x000#10 s = .ok 0 ∧
    view 0x002#10 s = .ok (0#16 ++ s.arg0) ∧ view 0x003#10 s = .ok (0#16 ++ s.arg1) ∧
    view 0x004#10 s = .ok s.kp ∧ view 0x005#10 s = .ok s.ki ∧ view 0x006#10 s = .ok s.kd ∧
    view 0x007#10 s = .ok (0#23 ++ s.rxSize) ∧
    (s.snapValid = true →
      (∃ w, view 0x100#10 s = .ok w ∧ w.getLsbD 0 = s.snap.btn0 ∧ w.getLsbD 1 = s.snap.btn1 ∧
        w.getLsbD 2 = s.snap.btn2 ∧ w.extractLsb' 3 29 = 0) ∧
      (∃ w, view 0x101#10 s = .ok w ∧ w.getLsbD 0 = s.snap.bumpL ∧ w.getLsbD 1 = s.snap.bumpC ∧
        w.getLsbD 2 = s.snap.bumpR ∧ w.extractLsb' 3 29 = 0) ∧
      (∃ w, view 0x102#10 s = .ok w ∧ w.getLsbD 0 = s.snap.dropL ∧ w.getLsbD 1 = s.snap.dropC ∧
        w.getLsbD 2 = s.snap.dropR ∧ w.extractLsb' 3 29 = 0) ∧
      (∃ w, view 0x103#10 s = .ok w ∧ w.extractLsb' 0 16 = s.snap.encL ∧ w.extractLsb' 16 16 = s.snap.encR) ∧
      (∀ (k : Fin 16) (i : BitVec 10), i.toNat = 0x104 + k.val → view i s = .ok s.snap.extra[k])) ∧
    (s.snapValid = false → ∀ i : BitVec 10, 0x100 ≤ i.toNat → i.toNat ≤ 0x113 → view i s = .error .snapshotUnspecified)

/-- 20_memory.md R51: a word index R52 does not list reads 0 and takes no write; reserved bits of a mapped register read 0 and
ignore writes. -/
def Obligations.UnmappedWords : Prop :=
  ∀ (s : State) (i : BitVec 10) (w w' : Word),
    ((0x009 ≤ i.toNat ∧ i.toNat ≤ 0x03F) ∨ (0x0C1 ≤ i.toNat ∧ i.toNat ≤ 0x0FF) ∨ 0x114 ≤ i.toNat →
      view i s = .ok 0 ∧ hostWrite i w s = s) ∧
    (i = 0x002#10 ∨ i = 0x003#10 →
      (w.extractLsb' 0 16 = w'.extractLsb' 0 16 → hostWrite i w s = hostWrite i w' s) ∧
      ∀ v, view i s = .ok v → v.extractLsb' 16 16 = 0) ∧
    (i = 0x001#10 → ∀ v, view i s = .ok v →
      v.getLsbD 3 = false ∧ v.extractLsb' 11 5 = 0 ∧ v.extractLsb' 28 4 = 0 ∧ hostWrite i w s = s) ∧
    (i = 0x007#10 → ∀ v, view i s = .ok v → v.extractLsb' 9 23 = 0 ∧ hostWrite i w s = s) ∧
    (i = 0x008#10 → ∀ v, view i s = .ok v → v.extractLsb' 19 13 = 0 ∧ hostWrite i w s = s) ∧
    (i = 0x100#10 ∨ i = 0x101#10 ∨ i = 0x102#10 →
      ∀ v, view i s = .ok v → v.extractLsb' 3 29 = 0 ∧ hostWrite i w s = s)

/-! ### Reset -/

/-- 70_reset_and_hazards.md R230, R231: a reset step, at any time, gives every element its reset value, no byte of a buffer
has a specified value, STATUS reads 0, what was sent stays sent, and the ENV's stream is not touched. -/
def Obligations.ResetStep : Prop :=
  ∀ (s : State) (ts : List Turn), s.schedule = .rst :: ts → ∃ t, step s = .next t ∧
    t.rxState = .idle ∧ t.hdrAa = false ∧ t.rxLen = 0 ∧ t.rxIdx = 0 ∧ t.failCnt = 0 ∧ t.rxValid = false ∧
    t.rxSize = 0 ∧ t.busy = false ∧ t.op = .noOp ∧ t.code = .ok ∧ t.arg0 = 0 ∧ t.arg1 = 0 ∧ t.kp = 0 ∧ t.ki = 0 ∧
    t.kd = 0 ∧ t.txN = 0 ∧ t.txIdx = 0 ∧ t.snapValid = false ∧ view 0x001#10 t = .ok 0x00000000#32 ∧
    (∀ a, Memory.read t.rxBuf a = none ∧ Memory.read t.txpay a = none ∧ Memory.read t.txf a = none) ∧
    t.rxStream = s.rxStream ∧ t.rxTaken = s.rxTaken ∧ t.wire = s.wire ∧ t.params = s.params ∧ t.schedule = ts

/-- 70_reset_and_hazards.md R230, 93_implementation_defined.md I1: after a reset step no byte of a buffer and no snapshot
word is specified: a host read of one stops the model. That the model stops is the treatment I1 gives (notes/assumptions/5). -/
def Obligations.ResetLeavesBuffersUnspecified : Prop :=
  ∀ (s t : State) (ts : List Turn), s.params.wf → s.schedule = .rst :: ts → step s = .next t →
    (∀ (i : BitVec 10), 0x040 ≤ i.toNat → i.toNat ≤ 0x07F → view i t = .error .txpayUnspecified) ∧
    (∀ (i : BitVec 10), 0x080 ≤ i.toNat → i.toNat ≤ 0x0A2 → view i t = .error .rxBufUnspecified) ∧
    (∀ (i : BitVec 10), 0x100 ≤ i.toNat → i.toNat ≤ 0x113 → view i t = .error .snapshotUnspecified)

/-- The machine right after reset meets the invariant, whatever its parameters are (70_reset_and_hazards.md R230,
00_scope.md R8). -/
def Obligations.ResetMeetsInvariant : Prop :=
  State.reset.Inv ∧ ∀ p : Params, p.wf → (State.resetWith p).Inv

/-! ### Invariants and rules of the whole machine -/

/-- Every step keeps the invariant: 10_state.md R20, R22-R28, R30, R35, 41_encoder.md R130-R132. -/
def Obligations.StepKeepsInvariant : Prop :=
  ∀ s t : State, s.Inv → step s = .next t → t.Inv

/-- From a state that meets the invariant a step goes on, unless the host asks for something unspecified
(93_implementation_defined.md I1). -/
def Obligations.StepGoesOn : Prop :=
  ∀ s : State, s.Inv → s.readsSpecified → ∃ t, step s = .next t

/-- From a state that meets the invariant only a host access stops the model, and only for an unspecified byte or snapshot
field (43_host_interface.md R180, 41_encoder.md R135, 93_implementation_defined.md I1); and no step refuses. -/
def Obligations.OnlyUnspecifiedReadsStop : Prop :=
  (∀ (s : State) (r : Refusal), step s ≠ .refused r) ∧
  ∀ (s : State) (f : Fault), s.Inv → step s = .fault f →
    (f = .rxBufUnspecified ∨ f = .txpayUnspecified ∨ f = .snapshotUnspecified) ∧
    ∃ p ts, s.schedule = .host p :: ts ∧ p.hReq = true ∧ (p.hWe = false ∨ decodeAccess p = .ok .encRaw)

/-- Derived from 10_state.md R27: where fail_cnt changes, the step is a reset, or the byte that ends a frame, a checksum match
or a mismatch below FAIL_CAP. (That a match clears it and a mismatch increments it are ChecksumMatch and ChecksumMismatch.) -/
def Obligations.FailCountRule : Prop :=
  ∀ s t : State, s.Inv → step s = .next t → t.failCnt ≠ s.failCnt →
    (∃ ts, s.schedule = .rst :: ts ∧ t.failCnt = 0) ∨
    (∃ ts b es P, State.taking s ts (.byte b) es ∧ s.rxState = .readChecksum ∧
      Memory.readList s.rxBuf 1 s.rxLen.toNat = some P ∧
      ((b = cks (s.rxLen :: P) ∧ t.failCnt = 0) ∨
        (b ≠ cks (s.rxLen :: P) ∧ t.failCnt.toNat = min (s.failCnt.toNat + 1) s.params.failCap)))

/-- 42_sensor_codec.md R163, R166, 10_state.md R36: the snapshot and SNAPVALID change only at reset and in a step that ends
a POLL or a DECODE with OK, and then they are the whole decode of a payload the layout fits. -/
def Obligations.SnapshotRule : Prop :=
  ∀ s t : State, step s = .next t → t.snap ≠ s.snap ∨ t.snapValid ≠ s.snapValid →
    (∃ ts, s.schedule = .rst :: ts) ∨
    ((t.op = .poll ∨ t.op = .decode) ∧ t.code = .ok ∧ t.busy = false ∧ t.snapValid = true ∧
      ∃ P, framePayload t = some P ∧ layoutFits s.params.layout P.length = true ∧ t.snap = snapshotOf s.params.layout P)

/-- 20_memory.md R66, 10_state.md R39: the RXE consumes events strictly in the order offered, one at most in a step, only
while a receive runs; none is skipped, dropped or read again. -/
def Obligations.ReceiveOrder : Prop :=
  ∀ s t : State, step s = .next t →
    ((∃ e, s.rxStream = e :: t.rxStream ∧ t.rxTaken = s.rxTaken ++ [e] ∧ s.busy = true ∧ s.op.isReceive = true) ∨
      (t.rxTaken = s.rxTaken ∧ t.rxStream = s.rxStream) ∨
      (∃ p ts, s.schedule = .env p :: ts ∧ t.rxTaken = s.rxTaken ∧ t.rxStream = s.rxStream ++ p.event.toList))

/-- 10_state.md R40, 41_encoder.md R131: a byte goes out only in a step of the TXE that the ENV accepts, while an encode
runs, and it is txf[tx_idx]. -/
def Obligations.TransmitOrder : Prop :=
  ∀ s t : State, step s = .next t →
    t.wire = s.wire ∨
      (∃ p ts b, s.schedule = .txe p :: ts ∧ p.txErr = false ∧ p.txReady = true ∧ s.busy = true ∧
        s.op.isEncode = true ∧ Memory.read s.txf s.txIdx.toNat = some b ∧ t.wire = s.wire ++ [b] ∧
        t.txIdx = s.txIdx + 1)

/-- 43_host_interface.md R184, 20_memory.md R68: while an operation runs, no host access changes what it does: neither the
frame in flight nor the receive, and a CMD write is dropped. -/
def Obligations.HostDoesNotDisturb : Prop :=
  ∀ (s t : State) (p : HostPins) (ts : List Turn),
    s.schedule = .host p :: ts → s.busy = true → step s = .next t →
    State.sameReceive s t ∧ State.sameTransmit s t ∧ t.busy = true ∧ t.op = s.op ∧ t.code = s.code ∧
      t.rxStream = s.rxStream ∧ t.rxTaken = s.rxTaken ∧ t.wire = s.wire

/-- 43_host_interface.md R185, 10_state.md R31: CODE changes only at reset, in a step that ends the running operation, or
in the dispatch of a DECODE or an illegal code. -/
def Obligations.CodeWrittenAtTheEnd : Prop :=
  ∀ s t : State, step s = .next t → t.code ≠ s.code →
    (∃ ts, s.schedule = .rst :: ts) ∨ (s.busy = true ∧ t.busy = false) ∨
    (s.busy = false ∧ t.busy = false ∧ ∃ p ts i, s.schedule = .host p :: ts ∧ decodeAccess p = .ok i ∧
      (i = .decode ∨ i = .illegal0 ∨ (∃ c, i = .illegalAB c) ∨ ∃ c, i = .illegalCF c))

/-! ### Runs of many steps -/

/-- 41_encoder.md R143: the frame of any payload of at most 255 bytes that the buffer holds, fed to a receive in
AWAIT_HEADER whatever hdr_aa is, ends in a match with the frame in rx_buf, and leaves the events behind it. -/
def Obligations.EncodedFramesAccepted : Prop :=
  ∀ (s : State) (P : List Byte) (rest : List RxEvent) (ts : List Turn),
    s.Inv → s.rxState = .awaitHeader → P.length ≤ 255 → P.length + 2 ≤ s.params.bufCap →
    s.rxStream = (frame P).map RxEvent.byte ++ rest → s.schedule = List.replicate (P.length + 4) .rxe ++ ts →
    ∃ t, Host.Core.run Sys2Proof.core (P.length + 4) s = .next t ∧
      t.busy = false ∧ t.rxValid = true ∧ t.failCnt = 0 ∧ t.rxSize.toNat = P.length + s.params.rxSizeBias ∧
      Memory.readList t.rxBuf 0 (P.length + 2) =
        some (lengthByte P :: P ++ [cks (lengthByte P :: P)]) ∧
      t.rxStream = rest ∧ t.schedule = ts ∧
      (s.op = .recv → t.code = .ok) ∧
      (s.op = .poll → t.code = if layoutFits s.params.layout P.length = true then .ok else .decodeShort)

/-- 40_receiver.md R102, 10_state.md R23, 60_exceptions.md R201 (the source's resynchronisation example T3): bytes that
hold no 0xAA directly followed by 0x55 are passed over, whatever they are, and the frame behind them is received. -/
def Obligations.GarbageThenFrameAccepted : Prop :=
  ∀ (s : State) (g P : List Byte) (rest : List RxEvent) (ts : List Turn),
    s.Inv → s.rxState = .awaitHeader → s.hdrAa = false → s.op = .recv →
    (∀ pre post : List Byte, g ≠ pre ++ [0xAA#8, 0x55#8] ++ post) →
    P.length ≤ 255 → P.length + 2 ≤ s.params.bufCap →
    s.rxStream = (g ++ frame P).map RxEvent.byte ++ rest →
    s.schedule = List.replicate (g.length + P.length + 4) .rxe ++ ts →
    ∃ t, Host.Core.run Sys2Proof.core (g.length + P.length + 4) s = .next t ∧
      t.code = .ok ∧ t.busy = false ∧ t.rxValid = true ∧ t.failCnt = 0 ∧
      Memory.readList t.rxBuf 0 (P.length + 2) = some (lengthByte P :: P ++ [cks (lengthByte P :: P)]) ∧
      t.rxStream = rest

/-- 41_encoder.md R130, R131, 20_memory.md R67: an encode whose every offered byte is accepted ends with OK after one step a
byte, and the wire then ends with the whole frame that was composed in txf. -/
def Obligations.TransmissionCompletes : Prop :=
  ∀ (s : State) (n : Nat) (ts : List Turn),
    s.Inv → s.busy = true → s.op.isEncode = true → n = s.txN.toNat - s.txIdx.toNat →
    s.schedule = List.replicate n (.txe ⟨true, false⟩) ++ ts →
    ∃ (t : State) (P before : List Byte), Memory.readList s.txf 0 s.txN.toNat = some (frame P) ∧
      Host.Core.run Sys2Proof.core n s = .next t ∧ t.busy = false ∧ t.code = .ok ∧ t.txIdx = s.txN ∧
      s.wire = before ++ (frame P).take s.txIdx.toNat ∧ t.wire = before ++ frame P ∧ t.schedule = ts

/-- 41_encoder.md R142: ENC_DRIVE, with every byte accepted, ends with OK; the bytes it puts on the wire, taken as the
receive stream of a RECV of any machine, give CODE = OK and an rx_buf from which speed and radius read back exactly as they
were written. It holds for every fail_cnt, below FAIL_CAP and at it. -/
def Obligations.DriveRoundTrip : Prop :=
  ∀ (s : State) (ts : List Turn),
    s.Inv → s.busy = false →
    s.schedule = .host (encode .encDrive) :: (List.replicate 10 (.txe ⟨true, false⟩) ++ ts) →
    ∃ (t : State) (sent : List Byte), Host.Core.run Sys2Proof.core 11 s = .next t ∧ t.code = .ok ∧ t.busy = false ∧
      t.wire = s.wire ++ sent ∧
      ∀ (r : State) (rest : List RxEvent) (us : List Turn),
        r.Inv → r.busy = false → r.rxStream = sent.map RxEvent.byte ++ rest →
        r.schedule = .host (encode .recv) :: (List.replicate 10 .rxe ++ us) →
        ∃ (u : State) (s0 s1 r0 r1 c : Byte), Host.Core.run Sys2Proof.core 11 r = .next u ∧ u.code = .ok ∧
          u.busy = false ∧ u.rxStream = rest ∧
          Memory.readList u.rxBuf 0 8 = some [0x06#8, 0x01#8, 0x04#8, s0, s1, r0, r1, c] ∧
          s1 ++ s0 = s.arg0 ∧ r1 ++ r0 = s.arg1

/-- Derived from 40_receiver.md R113: from every idle state that meets the invariant, whatever its buffer, operands and
snapshot hold, the function recv(f, s) answers what the machine does in a RECV dispatched there: the same code after the
same number of events, the same count, and the frame in rx_buf; where it answers pending, the receive stands where it says
and waits; and it always answers one of the two. That the pending state lists in rx_buf the bytes of this receive only, so
that the machine has its older bytes beyond them, is the model's choice (notes/assumptions/20). -/
def Obligations.RecvFunctionAgrees : Prop :=
  ∀ r : State, r.Inv → r.busy = false →
    (∀ (c : ResultCode) (k : Nat) (fr : Option (List Byte)) (f' : Byte),
      recv r.params r.failCnt r.rxStream = .done c k fr f' →
      k ≤ r.rxStream.length ∧
      ∀ ts : List Turn, r.schedule = .host (encode .recv) :: (List.replicate k .rxe ++ ts) →
        ∃ t, Host.Core.run Sys2Proof.core (k + 1) r = .next t ∧
          t.code = c ∧ t.busy = false ∧ t.op = .recv ∧ t.failCnt = f' ∧ t.schedule = ts ∧
          t.rxStream = r.rxStream.drop k ∧ t.rxTaken = r.rxTaken ++ r.rxStream.take k ∧
          State.sameOperands r t ∧ State.sameTransmit r t ∧ t.snap = r.snap ∧ t.snapValid = r.snapValid ∧
          ((c = .ok ∧ t.rxValid = true ∧ f' = 0 ∧ ∃ bytes, fr = some bytes ∧
              Memory.readList t.rxBuf 0 (t.rxLen.toNat + 2) = some bytes) ∨
            (c = .cksumCap ∧ t.rxValid = false ∧ fr = none ∧ f'.toNat = r.params.failCap) ∨
            (c = .rxIo ∧ t.rxValid = false ∧ fr = none) ∨ (c = .overrun ∧ t.rxValid = false ∧ fr = none))) ∧
    (∀ u : State, recv r.params r.failCnt r.rxStream = .pending u →
      ∀ ts : List Turn, r.schedule = .host (encode .recv) :: (List.replicate r.rxStream.length .rxe ++ ts) →
        ∃ t, Host.Core.run Sys2Proof.core (r.rxStream.length + 1) r = .next t ∧
          t.busy = true ∧ t.op = .recv ∧ t.code = r.code ∧ t.schedule = ts ∧ t.rxStream = [] ∧
          t.rxTaken = r.rxTaken ++ r.rxStream ∧
          t.rxState = u.rxState ∧ t.hdrAa = u.hdrAa ∧ t.rxIdx = u.rxIdx ∧ t.failCnt = u.failCnt ∧
          (t.rxLen =
            match Memory.read u.rxBuf 0 with
            | some _ => u.rxLen
            | none => r.rxLen) ∧
          t.rxValid = false ∧ State.sameOperands r t ∧ State.sameTransmit r t ∧ t.snap = r.snap ∧
          t.snapValid = r.snapValid ∧
          ∀ i, Memory.read t.rxBuf i =
            match Memory.read u.rxBuf i with
            | some b => some b
            | none => Memory.read r.rxBuf i) ∧
    ∀ x : Fault, recv r.params r.failCnt r.rxStream ≠ .stopped x

/-! ### The end of an operation and of a run -/

/-- 43_host_interface.md R185, R189: an operation with BUSY = 1 ends only in an RXE step of a receive, in a TXE step of an
encode, or at reset, and what ends it in an engine's step leaves rx_state IDLE; DECODE and an illegal code end inside their
dispatch. -/
def Obligations.OperationEnds : Prop :=
  (∀ s t : State, step s = .next t → s.busy = true → t.busy = false →
    (∃ ts, s.schedule = .rst :: ts) ∨
    (t.rxState = .idle ∧
      ((s.op.isReceive = true ∧ ∃ ts, s.schedule = .rxe :: ts) ∨
        (s.op.isEncode = true ∧ ∃ p ts, s.schedule = .txe p :: ts)))) ∧
  (∀ (s t : State) (i : Instr), s.busy = false → exec i s = .next t →
    (t.busy = false ↔ i = .decode ∨ i = .illegal0 ∨ (∃ c, i = .illegalAB c) ∨ ∃ c, i = .illegalCF c))

/-- 43_host_interface.md R189: a run ends at the first state in which the host has made its last access and BUSY = 0, and
that state's elements and stream positions are the end state; a run that faults has none, nor has one whose turns are used
up with BUSY = 1; and the run always comes to one of the three.Which access is the last, and that the run ends at
the first such state, is the model's choice (notes/assumptions/19). -/
def Obligations.RunEnds : Prop :=
  (∀ s : State, s.runEnded = true ↔
    (∀ p : HostPins, .host p ∈ s.schedule → p.hReq = false) ∧ s.busy = false) ∧
  (∀ s t : State, s.endState = t.endState ↔
    State.sameReceive s t ∧ State.sameOperands s t ∧ State.sameTransmit s t ∧ t.busy = s.busy ∧ t.op = s.op ∧
      t.code = s.code ∧ t.rxTaken = s.rxTaken ∧ t.wire = s.wire) ∧
  ∀ s : State,
    (∃ (k : Nat) (t : State), k ≤ s.schedule.length ∧ Host.Core.run Sys2Proof.core k s = .next t ∧
      (∀ j u, j < k → Host.Core.run Sys2Proof.core j s = .next u → u.runEnded = false) ∧
      ((t.runEnded = true ∧ hostRun s = .ended t.endState) ∨
        (t.runEnded = false ∧ t.schedule = [] ∧ t.busy = true ∧ hostRun s = .running t) ∨
        (t.runEnded = false ∧ ∃ f, step t = .fault f ∧ hostRun s = .stopped f)))
end

