-- ==== Sys2Proof/Laws/Memory.lean ====
section
/-! SUPPORT. The laws of byte buffers: what a read after a write gives, and that every operation keeps the one form of a
buffer and its address range. -/

namespace Sys2Proof.Machine

@[simp] theorem Memory.read_nil (a : Nat) : Memory.read [] a = none := rfl

@[simp] theorem Memory.read_cons_self (a : Nat) (b : Byte) (m : Memory) : Memory.read ((a, b) :: m) a = some b := by
  simp [Memory.read]

theorem Memory.read_cons_ne {a i : Nat} (b : Byte) (m : Memory) (h : a ≠ i) :
    Memory.read ((a, b) :: m) i = Memory.read m i := by
  simp [Memory.read, h]

@[simp] theorem Memory.read_write_same (m : Memory) (a : Nat) (b : Byte) :
    Memory.read (Memory.write m a b) a = some b := by
  induction m with
  | nil => simp [Memory.write]
  | cons c m ih =>
    obtain ⟨k, v⟩ := c
    simp only [Memory.write]
    split
    · simp
    · split
      · simp
      · rename_i h
        rw [Memory.read_cons_ne _ _ (fun e => h e.symm)]
        exact ih

theorem Memory.read_write_other {a i : Nat} (m : Memory) (b : Byte) (h : i ≠ a) :
    Memory.read (Memory.write m a b) i = Memory.read m i := by
  induction m with
  | nil => simp [Memory.write, Memory.read, h.symm]
  | cons c m ih =>
    obtain ⟨k, v⟩ := c
    simp only [Memory.write]
    split
    · exact Memory.read_cons_ne _ _ h.symm
    · split
      · subst_vars
        rw [Memory.read_cons_ne _ _ h.symm, Memory.read_cons_ne _ _ h.symm]
      · by_cases hk : k = i
        · subst hk; simp
        · rw [Memory.read_cons_ne _ _ hk, Memory.read_cons_ne _ _ hk, ih]

theorem Memory.read_write (m : Memory) (a i : Nat) (b : Byte) :
    Memory.read (Memory.write m a b) i = if i = a then some b else Memory.read m i := by
  split
  · subst_vars; simp
  · exact Memory.read_write_other m b ‹_›

/-! ### Lists of bytes -/

theorem Memory.read_writeList_outside (bs : List Byte) (m : Memory) (a i : Nat) (h : i < a ∨ a + bs.length ≤ i) :
    Memory.read (Memory.writeList m a bs) i = Memory.read m i := by
  induction bs generalizing m a with
  | nil => rfl
  | cons b bs ih =>
    simp only [List.length_cons] at h
    rw [Memory.writeList, ih _ _ (by omega), Memory.read_write_other _ _ (by omega)]

theorem Memory.read_writeList_inside (bs : List Byte) (m : Memory) (a i : Nat) (h : i < bs.length) :
    Memory.read (Memory.writeList m a bs) (a + i) = some bs[i] := by
  induction bs generalizing m a i with
  | nil => simp at h
  | cons b bs ih =>
    rw [Memory.writeList]
    cases i with
    | zero =>
      rw [Memory.read_writeList_outside bs _ _ _ (by omega)]
      simp
    | succ i =>
      have := ih (Memory.write m a b) (a + 1) i (by simpa using h)
      rw [show a + (i + 1) = a + 1 + i by omega, this]
      simp

/-- Reading a list gives `bs` exactly when every byte of the range reads as the list says. -/
theorem Memory.readList_eq_some (m : Memory) (a n : Nat) (bs : List Byte) :
    Memory.readList m a n = some bs ↔
      bs.length = n ∧ ∀ i (h : i < bs.length), Memory.read m (a + i) = some bs[i] := by
  induction n generalizing a bs with
  | zero =>
    simp only [Memory.readList, Option.some.injEq]
    constructor
    · rintro rfl; simp
    · rintro ⟨h, -⟩; exact (List.length_eq_zero_iff.mp h).symm
  | succ n ih =>
    rw [Memory.readList]
    constructor
    · intro h
      split at h
      · rename_i b cs hb hcs
        obtain ⟨hl, hr⟩ := (ih _ _).mp hcs
        cases h
        refine ⟨by simp [hl], fun i hi => ?_⟩
        cases i with
        | zero => simpa using hb
        | succ i =>
          have := hr i (by simpa using hi)
          rw [show a + (i + 1) = a + 1 + i by omega, this]
          simp
      · cases h
    · rintro ⟨hl, hr⟩
      cases bs with
      | nil => simp at hl
      | cons b cs =>
        have h0 := hr 0 (by simp)
        have hcs : Memory.readList m (a + 1) n = some cs := by
          refine (ih _ _).mpr ⟨by simpa using hl, fun i hi => ?_⟩
          have := hr (i + 1) (by simpa using hi)
          rw [show a + 1 + i = a + (i + 1) by omega, this]
          simp
        simp only [Nat.add_zero, List.getElem_cons_zero] at h0
        simp [h0, hcs]

theorem Memory.readList_writeList (m : Memory) (a : Nat) (bs : List Byte) :
    Memory.readList (Memory.writeList m a bs) a bs.length = some bs :=
  (Memory.readList_eq_some _ _ _ _).mpr ⟨rfl, fun i h => Memory.read_writeList_inside bs m a i h⟩

theorem Memory.readList_congr {m m' : Memory} {a n : Nat}
    (h : ∀ i, a ≤ i → i < a + n → Memory.read m' i = Memory.read m i) :
    Memory.readList m' a n = Memory.readList m a n := by
  induction n generalizing a with
  | zero => rfl
  | succ n ih =>
    rw [Memory.readList, Memory.readList, h a (by omega) (by omega), ih (fun i h1 h2 => h i (by omega) (by omega))]

theorem Memory.readList_isSome {m : Memory} {a n : Nat}
    (h : ∀ i, i < n → ∃ b, Memory.read m (a + i) = some b) : ∃ bs, Memory.readList m a n = some bs := by
  induction n generalizing a with
  | zero => exact ⟨[], rfl⟩
  | succ n ih =>
    obtain ⟨b, hb⟩ := h 0 (by omega)
    obtain ⟨bs, hbs⟩ := ih (a := a + 1) (fun i hi => by
      obtain ⟨c, hc⟩ := h (i + 1) (by omega)
      exact ⟨c, by rw [show a + 1 + i = a + (i + 1) by omega]; exact hc⟩)
    exact ⟨b :: bs, by simp_all [Memory.readList]⟩

theorem Memory.readList_none {m : Memory} {a n i : Nat} (hi : i < n) (h : Memory.read m (a + i) = none) :
    Memory.readList m a n = none := by
  cases hr : Memory.readList m a n with
  | none => rfl
  | some bs =>
    obtain ⟨hl, hb⟩ := (Memory.readList_eq_some _ _ _ _).mp hr
    rw [hb i (by omega)] at h
    cases h

/-! ### The one form of a buffer -/

/-- Every address of the buffer lies below `n`. -/
def Memory.below (m : Memory) (n : Nat) : Prop := ∀ c ∈ m, c.1 < n

theorem Memory.mem_write {m : Memory} {a : Nat} {b : Byte} {c : Host.Cell} (h : c ∈ Memory.write m a b) :
    c = (a, b) ∨ c ∈ m := by
  induction m with
  | nil => simpa [Memory.write] using h
  | cons d m ih =>
    simp only [Memory.write] at h
    split at h
    · simpa using h
    · split at h
      · rcases List.mem_cons.mp h with h | h
        · exact .inl h
        · exact .inr (List.mem_cons_of_mem _ h)
      · rcases List.mem_cons.mp h with h | h
        · exact .inr (h ▸ List.mem_cons_self)
        · exact (ih h).imp id (List.mem_cons_of_mem _)

theorem Memory.write_below {m : Memory} {a n : Nat} (b : Byte) (hm : Memory.below m n) (ha : a < n) :
    Memory.below (Memory.write m a b) n := by
  intro c hc
  rcases Memory.mem_write hc with rfl | h
  · exact ha
  · exact hm c h

theorem Memory.writeList_below (bs : List Byte) {m : Memory} {a n : Nat} (hm : Memory.below m n)
    (ha : a + bs.length ≤ n) : Memory.below (Memory.writeList m a bs) n := by
  induction bs generalizing m a with
  | nil => exact hm
  | cons b bs ih =>
    simp only [List.length_cons] at ha
    exact ih (Memory.write_below b hm (by omega)) (by omega)

theorem Memory.nil_wf : Memory.wf [] := List.Pairwise.nil

theorem Memory.write_wf {m : Memory} (a : Nat) (b : Byte) (h : Memory.wf m) : Memory.wf (Memory.write m a b) := by
  induction m with
  | nil => simp [Memory.write, Memory.wf]
  | cons c m ih =>
    obtain ⟨hc, hm⟩ := List.pairwise_cons.mp h
    simp only [Memory.write]
    split
    · rename_i hlt
      refine List.pairwise_cons.mpr ⟨fun d hd => ?_, h⟩
      rcases List.mem_cons.mp hd with rfl | hd
      · exact hlt
      · exact Nat.lt_trans hlt (hc d hd)
    · split
      · rename_i heq
        exact List.pairwise_cons.mpr ⟨fun d hd => heq ▸ hc d hd, hm⟩
      · refine List.pairwise_cons.mpr ⟨fun d hd => ?_, ih hm⟩
        rcases Memory.mem_write hd with rfl | hd
        · show c.1 < a
          omega
        · exact hc d hd

theorem Memory.writeList_wf (bs : List Byte) {m : Memory} (a : Nat) (h : Memory.wf m) :
    Memory.wf (Memory.writeList m a bs) := by
  induction bs generalizing m a with
  | nil => exact h
  | cons b bs ih => exact ih (a + 1) (Memory.write_wf a b h)

/-- Two buffers of the one form that read alike everywhere are the same list. -/
theorem Memory.ext_of_wf {m m' : Memory} (h : Memory.wf m) (h' : Memory.wf m')
    (heq : ∀ i, Memory.read m i = Memory.read m' i) : m = m' := by
  have hnone : ∀ (l : Memory) (k : Nat), (∀ c ∈ l, k < c.1) → Memory.read l k = none := by
    intro l k
    induction l with
    | nil => intro _; rfl
    | cons c l ih =>
      intro hl
      have := hl c List.mem_cons_self
      rw [Memory.read, if_neg (by omega)]
      exact ih (fun d hd => hl d (List.mem_cons_of_mem _ hd))
  induction m generalizing m' with
  | nil =>
    cases m' with
    | nil => rfl
    | cons c m' =>
      have := heq c.1
      rw [Memory.read_nil, Memory.read_cons_self] at this
      cases this
  | cons c m ih =>
    obtain ⟨hc, hm⟩ := List.pairwise_cons.mp h
    cases m' with
    | nil =>
      have := heq c.1
      rw [Memory.read_nil, Memory.read_cons_self] at this
      cases this
    | cons d m' =>
      obtain ⟨hd, hm'⟩ := List.pairwise_cons.mp h'
      have hcd : c.1 = d.1 := by
        rcases Nat.lt_trichotomy c.1 d.1 with hlt | he | hlt
        · have := heq c.1
          rw [Memory.read_cons_self, hnone (d :: m') c.1 (by
            intro e he
            rcases List.mem_cons.mp he with rfl | he
            · exact hlt
            · exact Nat.lt_trans hlt (hd e he))] at this
          cases this
        · exact he
        · have := heq d.1
          rw [Memory.read_cons_self, hnone (c :: m) d.1 (by
            intro e he
            rcases List.mem_cons.mp he with rfl | he
            · exact hlt
            · exact Nat.lt_trans hlt (hc e he))] at this
          cases this
      obtain ⟨k, v⟩ := c
      obtain ⟨k', v'⟩ := d
      simp only at hcd
      subst hcd
      have hv := heq k
      simp only [Memory.read_cons_self, Option.some.injEq] at hv
      subst hv
      congr 1
      refine ih hm hm' (fun i => ?_)
      by_cases hi : k = i
      · subst hi
        rw [hnone m k (fun e he => hc e he), hnone m' k (fun e he => hd e he)]
      · have := heq i
        rwa [Memory.read_cons_ne _ _ hi, Memory.read_cons_ne _ _ hi] at this

/-- The buffers of the machine after reset have the one form. -/
theorem resetWith_memories_wf (p : Params) :
    Memory.wf (State.resetWith p).rxBuf ∧ Memory.wf (State.resetWith p).txpay ∧ Memory.wf (State.resetWith p).txf :=
  ⟨Memory.nil_wf, Memory.nil_wf, Memory.nil_wf⟩

end Sys2Proof.Machine
end

