-- ==== Sys2Proof/Laws/State.lean ====
section
/-! SUPPORT. One lemma per field for each named update of the state: what the update puts there, or that it leaves the
field alone. -/

namespace Sys2Proof.Machine

variable (s : State)

/-! ### withSchedule -/

@[simp] theorem withSchedule_rxState (ts : List Turn) : (State.withSchedule ts s).rxState = s.rxState := rfl
@[simp] theorem withSchedule_hdrAa (ts : List Turn) : (State.withSchedule ts s).hdrAa = s.hdrAa := rfl
@[simp] theorem withSchedule_rxLen (ts : List Turn) : (State.withSchedule ts s).rxLen = s.rxLen := rfl
@[simp] theorem withSchedule_rxIdx (ts : List Turn) : (State.withSchedule ts s).rxIdx = s.rxIdx := rfl
@[simp] theorem withSchedule_rxBuf (ts : List Turn) : (State.withSchedule ts s).rxBuf = s.rxBuf := rfl
@[simp] theorem withSchedule_failCnt (ts : List Turn) : (State.withSchedule ts s).failCnt = s.failCnt := rfl
@[simp] theorem withSchedule_rxValid (ts : List Turn) : (State.withSchedule ts s).rxValid = s.rxValid := rfl
@[simp] theorem withSchedule_rxSize (ts : List Turn) : (State.withSchedule ts s).rxSize = s.rxSize := rfl
@[simp] theorem withSchedule_busy (ts : List Turn) : (State.withSchedule ts s).busy = s.busy := rfl
@[simp] theorem withSchedule_op (ts : List Turn) : (State.withSchedule ts s).op = s.op := rfl
@[simp] theorem withSchedule_code (ts : List Turn) : (State.withSchedule ts s).code = s.code := rfl
@[simp] theorem withSchedule_arg0 (ts : List Turn) : (State.withSchedule ts s).arg0 = s.arg0 := rfl
@[simp] theorem withSchedule_arg1 (ts : List Turn) : (State.withSchedule ts s).arg1 = s.arg1 := rfl
@[simp] theorem withSchedule_kp (ts : List Turn) : (State.withSchedule ts s).kp = s.kp := rfl
@[simp] theorem withSchedule_ki (ts : List Turn) : (State.withSchedule ts s).ki = s.ki := rfl
@[simp] theorem withSchedule_kd (ts : List Turn) : (State.withSchedule ts s).kd = s.kd := rfl
@[simp] theorem withSchedule_txpay (ts : List Turn) : (State.withSchedule ts s).txpay = s.txpay := rfl
@[simp] theorem withSchedule_txf (ts : List Turn) : (State.withSchedule ts s).txf = s.txf := rfl
@[simp] theorem withSchedule_txN (ts : List Turn) : (State.withSchedule ts s).txN = s.txN := rfl
@[simp] theorem withSchedule_txIdx (ts : List Turn) : (State.withSchedule ts s).txIdx = s.txIdx := rfl
@[simp] theorem withSchedule_snap (ts : List Turn) : (State.withSchedule ts s).snap = s.snap := rfl
@[simp] theorem withSchedule_snapValid (ts : List Turn) : (State.withSchedule ts s).snapValid = s.snapValid := rfl
@[simp] theorem withSchedule_params (ts : List Turn) : (State.withSchedule ts s).params = s.params := rfl
@[simp] theorem withSchedule_rxStream (ts : List Turn) : (State.withSchedule ts s).rxStream = s.rxStream := rfl
@[simp] theorem withSchedule_rxTaken (ts : List Turn) : (State.withSchedule ts s).rxTaken = s.rxTaken := rfl
@[simp] theorem withSchedule_wire (ts : List Turn) : (State.withSchedule ts s).wire = s.wire := rfl
@[simp] theorem withSchedule_hRdata (ts : List Turn) : (State.withSchedule ts s).hRdata = s.hRdata := rfl
@[simp] theorem withSchedule_schedule (ts : List Turn) : (State.withSchedule ts s).schedule = ts := rfl

/-! ### finish -/

@[simp] theorem finish_rxState (c : ResultCode) : (finish c s).rxState = .idle := rfl
@[simp] theorem finish_hdrAa (c : ResultCode) : (finish c s).hdrAa = s.hdrAa := rfl
@[simp] theorem finish_rxLen (c : ResultCode) : (finish c s).rxLen = s.rxLen := rfl
@[simp] theorem finish_rxIdx (c : ResultCode) : (finish c s).rxIdx = s.rxIdx := rfl
@[simp] theorem finish_rxBuf (c : ResultCode) : (finish c s).rxBuf = s.rxBuf := rfl
@[simp] theorem finish_failCnt (c : ResultCode) : (finish c s).failCnt = s.failCnt := rfl
@[simp] theorem finish_rxValid (c : ResultCode) : (finish c s).rxValid = s.rxValid := rfl
@[simp] theorem finish_rxSize (c : ResultCode) : (finish c s).rxSize = s.rxSize := rfl
@[simp] theorem finish_busy (c : ResultCode) : (finish c s).busy = false := rfl
@[simp] theorem finish_op (c : ResultCode) : (finish c s).op = s.op := rfl
@[simp] theorem finish_code (c : ResultCode) : (finish c s).code = c := rfl
@[simp] theorem finish_arg0 (c : ResultCode) : (finish c s).arg0 = s.arg0 := rfl
@[simp] theorem finish_arg1 (c : ResultCode) : (finish c s).arg1 = s.arg1 := rfl
@[simp] theorem finish_kp (c : ResultCode) : (finish c s).kp = s.kp := rfl
@[simp] theorem finish_ki (c : ResultCode) : (finish c s).ki = s.ki := rfl
@[simp] theorem finish_kd (c : ResultCode) : (finish c s).kd = s.kd := rfl
@[simp] theorem finish_txpay (c : ResultCode) : (finish c s).txpay = s.txpay := rfl
@[simp] theorem finish_txf (c : ResultCode) : (finish c s).txf = s.txf := rfl
@[simp] theorem finish_txN (c : ResultCode) : (finish c s).txN = s.txN := rfl
@[simp] theorem finish_txIdx (c : ResultCode) : (finish c s).txIdx = s.txIdx := rfl
@[simp] theorem finish_snap (c : ResultCode) : (finish c s).snap = s.snap := rfl
@[simp] theorem finish_snapValid (c : ResultCode) : (finish c s).snapValid = s.snapValid := rfl
@[simp] theorem finish_params (c : ResultCode) : (finish c s).params = s.params := rfl
@[simp] theorem finish_rxStream (c : ResultCode) : (finish c s).rxStream = s.rxStream := rfl
@[simp] theorem finish_rxTaken (c : ResultCode) : (finish c s).rxTaken = s.rxTaken := rfl
@[simp] theorem finish_wire (c : ResultCode) : (finish c s).wire = s.wire := rfl
@[simp] theorem finish_hRdata (c : ResultCode) : (finish c s).hRdata = s.hRdata := rfl
@[simp] theorem finish_schedule (c : ResultCode) : (finish c s).schedule = s.schedule := rfl

/-! ### startReceive -/

@[simp] theorem startReceive_rxState (o : OpCode) : (startReceive o s).rxState = .awaitHeader := rfl
@[simp] theorem startReceive_hdrAa (o : OpCode) : (startReceive o s).hdrAa = false := rfl
@[simp] theorem startReceive_rxLen (o : OpCode) : (startReceive o s).rxLen = s.rxLen := rfl
@[simp] theorem startReceive_rxIdx (o : OpCode) : (startReceive o s).rxIdx = 0 := rfl
@[simp] theorem startReceive_rxBuf (o : OpCode) : (startReceive o s).rxBuf = s.rxBuf := rfl
@[simp] theorem startReceive_failCnt (o : OpCode) : (startReceive o s).failCnt = s.failCnt := rfl
@[simp] theorem startReceive_rxValid (o : OpCode) : (startReceive o s).rxValid = false := rfl
@[simp] theorem startReceive_rxSize (o : OpCode) : (startReceive o s).rxSize = s.rxSize := rfl
@[simp] theorem startReceive_busy (o : OpCode) : (startReceive o s).busy = true := rfl
@[simp] theorem startReceive_op (o : OpCode) : (startReceive o s).op = o := rfl
@[simp] theorem startReceive_code (o : OpCode) : (startReceive o s).code = s.code := rfl
@[simp] theorem startReceive_arg0 (o : OpCode) : (startReceive o s).arg0 = s.arg0 := rfl
@[simp] theorem startReceive_arg1 (o : OpCode) : (startReceive o s).arg1 = s.arg1 := rfl
@[simp] theorem startReceive_kp (o : OpCode) : (startReceive o s).kp = s.kp := rfl
@[simp] theorem startReceive_ki (o : OpCode) : (startReceive o s).ki = s.ki := rfl
@[simp] theorem startReceive_kd (o : OpCode) : (startReceive o s).kd = s.kd := rfl
@[simp] theorem startReceive_txpay (o : OpCode) : (startReceive o s).txpay = s.txpay := rfl
@[simp] theorem startReceive_txf (o : OpCode) : (startReceive o s).txf = s.txf := rfl
@[simp] theorem startReceive_txN (o : OpCode) : (startReceive o s).txN = s.txN := rfl
@[simp] theorem startReceive_txIdx (o : OpCode) : (startReceive o s).txIdx = s.txIdx := rfl
@[simp] theorem startReceive_snap (o : OpCode) : (startReceive o s).snap = s.snap := rfl
@[simp] theorem startReceive_snapValid (o : OpCode) : (startReceive o s).snapValid = s.snapValid := rfl
@[simp] theorem startReceive_params (o : OpCode) : (startReceive o s).params = s.params := rfl
@[simp] theorem startReceive_rxStream (o : OpCode) : (startReceive o s).rxStream = s.rxStream := rfl
@[simp] theorem startReceive_rxTaken (o : OpCode) : (startReceive o s).rxTaken = s.rxTaken := rfl
@[simp] theorem startReceive_wire (o : OpCode) : (startReceive o s).wire = s.wire := rfl
@[simp] theorem startReceive_hRdata (o : OpCode) : (startReceive o s).hRdata = s.hRdata := rfl
@[simp] theorem startReceive_schedule (o : OpCode) : (startReceive o s).schedule = s.schedule := rfl

/-! ### startTransmit -/

@[simp] theorem startTransmit_rxState (o : OpCode) (P : List Byte) : (startTransmit o P s).rxState = s.rxState := rfl
@[simp] theorem startTransmit_hdrAa (o : OpCode) (P : List Byte) : (startTransmit o P s).hdrAa = s.hdrAa := rfl
@[simp] theorem startTransmit_rxLen (o : OpCode) (P : List Byte) : (startTransmit o P s).rxLen = s.rxLen := rfl
@[simp] theorem startTransmit_rxIdx (o : OpCode) (P : List Byte) : (startTransmit o P s).rxIdx = s.rxIdx := rfl
@[simp] theorem startTransmit_rxBuf (o : OpCode) (P : List Byte) : (startTransmit o P s).rxBuf = s.rxBuf := rfl
@[simp] theorem startTransmit_failCnt (o : OpCode) (P : List Byte) : (startTransmit o P s).failCnt = s.failCnt := rfl
@[simp] theorem startTransmit_rxValid (o : OpCode) (P : List Byte) : (startTransmit o P s).rxValid = s.rxValid := rfl
@[simp] theorem startTransmit_rxSize (o : OpCode) (P : List Byte) : (startTransmit o P s).rxSize = s.rxSize := rfl
@[simp] theorem startTransmit_busy (o : OpCode) (P : List Byte) : (startTransmit o P s).busy = true := rfl
@[simp] theorem startTransmit_op (o : OpCode) (P : List Byte) : (startTransmit o P s).op = o := rfl
@[simp] theorem startTransmit_code (o : OpCode) (P : List Byte) : (startTransmit o P s).code = s.code := rfl
@[simp] theorem startTransmit_arg0 (o : OpCode) (P : List Byte) : (startTransmit o P s).arg0 = s.arg0 := rfl
@[simp] theorem startTransmit_arg1 (o : OpCode) (P : List Byte) : (startTransmit o P s).arg1 = s.arg1 := rfl
@[simp] theorem startTransmit_kp (o : OpCode) (P : List Byte) : (startTransmit o P s).kp = s.kp := rfl
@[simp] theorem startTransmit_ki (o : OpCode) (P : List Byte) : (startTransmit o P s).ki = s.ki := rfl
@[simp] theorem startTransmit_kd (o : OpCode) (P : List Byte) : (startTransmit o P s).kd = s.kd := rfl
@[simp] theorem startTransmit_txpay (o : OpCode) (P : List Byte) : (startTransmit o P s).txpay = s.txpay := rfl
@[simp] theorem startTransmit_txf (o : OpCode) (P : List Byte) : (startTransmit o P s).txf = Memory.writeList s.txf 0 (frame P) := rfl
@[simp] theorem startTransmit_txN (o : OpCode) (P : List Byte) : (startTransmit o P s).txN = BitVec.ofNat 9 (P.length + 4) := rfl
@[simp] theorem startTransmit_txIdx (o : OpCode) (P : List Byte) : (startTransmit o P s).txIdx = 0 := rfl
@[simp] theorem startTransmit_snap (o : OpCode) (P : List Byte) : (startTransmit o P s).snap = s.snap := rfl
@[simp] theorem startTransmit_snapValid (o : OpCode) (P : List Byte) : (startTransmit o P s).snapValid = s.snapValid := rfl
@[simp] theorem startTransmit_params (o : OpCode) (P : List Byte) : (startTransmit o P s).params = s.params := rfl
@[simp] theorem startTransmit_rxStream (o : OpCode) (P : List Byte) : (startTransmit o P s).rxStream = s.rxStream := rfl
@[simp] theorem startTransmit_rxTaken (o : OpCode) (P : List Byte) : (startTransmit o P s).rxTaken = s.rxTaken := rfl
@[simp] theorem startTransmit_wire (o : OpCode) (P : List Byte) : (startTransmit o P s).wire = s.wire := rfl
@[simp] theorem startTransmit_hRdata (o : OpCode) (P : List Byte) : (startTransmit o P s).hRdata = s.hRdata := rfl
@[simp] theorem startTransmit_schedule (o : OpCode) (P : List Byte) : (startTransmit o P s).schedule = s.schedule := rfl

/-! ### envOffer -/

@[simp] theorem envOffer_rxState (p : RxPins) : (envOffer p s).rxState = s.rxState := rfl
@[simp] theorem envOffer_hdrAa (p : RxPins) : (envOffer p s).hdrAa = s.hdrAa := rfl
@[simp] theorem envOffer_rxLen (p : RxPins) : (envOffer p s).rxLen = s.rxLen := rfl
@[simp] theorem envOffer_rxIdx (p : RxPins) : (envOffer p s).rxIdx = s.rxIdx := rfl
@[simp] theorem envOffer_rxBuf (p : RxPins) : (envOffer p s).rxBuf = s.rxBuf := rfl
@[simp] theorem envOffer_failCnt (p : RxPins) : (envOffer p s).failCnt = s.failCnt := rfl
@[simp] theorem envOffer_rxValid (p : RxPins) : (envOffer p s).rxValid = s.rxValid := rfl
@[simp] theorem envOffer_rxSize (p : RxPins) : (envOffer p s).rxSize = s.rxSize := rfl
@[simp] theorem envOffer_busy (p : RxPins) : (envOffer p s).busy = s.busy := rfl
@[simp] theorem envOffer_op (p : RxPins) : (envOffer p s).op = s.op := rfl
@[simp] theorem envOffer_code (p : RxPins) : (envOffer p s).code = s.code := rfl
@[simp] theorem envOffer_arg0 (p : RxPins) : (envOffer p s).arg0 = s.arg0 := rfl
@[simp] theorem envOffer_arg1 (p : RxPins) : (envOffer p s).arg1 = s.arg1 := rfl
@[simp] theorem envOffer_kp (p : RxPins) : (envOffer p s).kp = s.kp := rfl
@[simp] theorem envOffer_ki (p : RxPins) : (envOffer p s).ki = s.ki := rfl
@[simp] theorem envOffer_kd (p : RxPins) : (envOffer p s).kd = s.kd := rfl
@[simp] theorem envOffer_txpay (p : RxPins) : (envOffer p s).txpay = s.txpay := rfl
@[simp] theorem envOffer_txf (p : RxPins) : (envOffer p s).txf = s.txf := rfl
@[simp] theorem envOffer_txN (p : RxPins) : (envOffer p s).txN = s.txN := rfl
@[simp] theorem envOffer_txIdx (p : RxPins) : (envOffer p s).txIdx = s.txIdx := rfl
@[simp] theorem envOffer_snap (p : RxPins) : (envOffer p s).snap = s.snap := rfl
@[simp] theorem envOffer_snapValid (p : RxPins) : (envOffer p s).snapValid = s.snapValid := rfl
@[simp] theorem envOffer_params (p : RxPins) : (envOffer p s).params = s.params := rfl
@[simp] theorem envOffer_rxStream (p : RxPins) : (envOffer p s).rxStream = s.rxStream ++ p.event.toList := rfl
@[simp] theorem envOffer_rxTaken (p : RxPins) : (envOffer p s).rxTaken = s.rxTaken := rfl
@[simp] theorem envOffer_wire (p : RxPins) : (envOffer p s).wire = s.wire := rfl
@[simp] theorem envOffer_hRdata (p : RxPins) : (envOffer p s).hRdata = s.hRdata := rfl
@[simp] theorem envOffer_schedule (p : RxPins) : (envOffer p s).schedule = s.schedule := rfl

/-! ### illegalOperation -/

@[simp] theorem illegalOperation_rxState : (illegalOperation s).rxState = s.rxState := rfl
@[simp] theorem illegalOperation_hdrAa : (illegalOperation s).hdrAa = s.hdrAa := rfl
@[simp] theorem illegalOperation_rxLen : (illegalOperation s).rxLen = s.rxLen := rfl
@[simp] theorem illegalOperation_rxIdx : (illegalOperation s).rxIdx = s.rxIdx := rfl
@[simp] theorem illegalOperation_rxBuf : (illegalOperation s).rxBuf = s.rxBuf := rfl
@[simp] theorem illegalOperation_failCnt : (illegalOperation s).failCnt = s.failCnt := rfl
@[simp] theorem illegalOperation_rxValid : (illegalOperation s).rxValid = s.rxValid := rfl
@[simp] theorem illegalOperation_rxSize : (illegalOperation s).rxSize = s.rxSize := rfl
@[simp] theorem illegalOperation_busy : (illegalOperation s).busy = s.busy := rfl
@[simp] theorem illegalOperation_op : (illegalOperation s).op = s.op := rfl
@[simp] theorem illegalOperation_code : (illegalOperation s).code = .illegalOp := rfl
@[simp] theorem illegalOperation_arg0 : (illegalOperation s).arg0 = s.arg0 := rfl
@[simp] theorem illegalOperation_arg1 : (illegalOperation s).arg1 = s.arg1 := rfl
@[simp] theorem illegalOperation_kp : (illegalOperation s).kp = s.kp := rfl
@[simp] theorem illegalOperation_ki : (illegalOperation s).ki = s.ki := rfl
@[simp] theorem illegalOperation_kd : (illegalOperation s).kd = s.kd := rfl
@[simp] theorem illegalOperation_txpay : (illegalOperation s).txpay = s.txpay := rfl
@[simp] theorem illegalOperation_txf : (illegalOperation s).txf = s.txf := rfl
@[simp] theorem illegalOperation_txN : (illegalOperation s).txN = s.txN := rfl
@[simp] theorem illegalOperation_txIdx : (illegalOperation s).txIdx = s.txIdx := rfl
@[simp] theorem illegalOperation_snap : (illegalOperation s).snap = s.snap := rfl
@[simp] theorem illegalOperation_snapValid : (illegalOperation s).snapValid = s.snapValid := rfl
@[simp] theorem illegalOperation_params : (illegalOperation s).params = s.params := rfl
@[simp] theorem illegalOperation_rxStream : (illegalOperation s).rxStream = s.rxStream := rfl
@[simp] theorem illegalOperation_rxTaken : (illegalOperation s).rxTaken = s.rxTaken := rfl
@[simp] theorem illegalOperation_wire : (illegalOperation s).wire = s.wire := rfl
@[simp] theorem illegalOperation_hRdata : (illegalOperation s).hRdata = s.hRdata := rfl
@[simp] theorem illegalOperation_schedule : (illegalOperation s).schedule = s.schedule := rfl

/-! ### rxMatchWrites -/

@[simp] theorem rxMatchWrites_rxState : (rxMatchWrites s).rxState = s.rxState := rfl
@[simp] theorem rxMatchWrites_hdrAa : (rxMatchWrites s).hdrAa = s.hdrAa := rfl
@[simp] theorem rxMatchWrites_rxLen : (rxMatchWrites s).rxLen = s.rxLen := rfl
@[simp] theorem rxMatchWrites_rxIdx : (rxMatchWrites s).rxIdx = s.rxIdx := rfl
@[simp] theorem rxMatchWrites_rxBuf : (rxMatchWrites s).rxBuf = s.rxBuf := rfl
@[simp] theorem rxMatchWrites_failCnt : (rxMatchWrites s).failCnt = 0 := rfl
@[simp] theorem rxMatchWrites_rxValid : (rxMatchWrites s).rxValid = true := rfl
@[simp] theorem rxMatchWrites_rxSize : (rxMatchWrites s).rxSize = s.rxLen.setWidth 9 + BitVec.ofNat 9 s.params.rxSizeBias := rfl
@[simp] theorem rxMatchWrites_busy : (rxMatchWrites s).busy = s.busy := rfl
@[simp] theorem rxMatchWrites_op : (rxMatchWrites s).op = s.op := rfl
@[simp] theorem rxMatchWrites_code : (rxMatchWrites s).code = s.code := rfl
@[simp] theorem rxMatchWrites_arg0 : (rxMatchWrites s).arg0 = s.arg0 := rfl
@[simp] theorem rxMatchWrites_arg1 : (rxMatchWrites s).arg1 = s.arg1 := rfl
@[simp] theorem rxMatchWrites_kp : (rxMatchWrites s).kp = s.kp := rfl
@[simp] theorem rxMatchWrites_ki : (rxMatchWrites s).ki = s.ki := rfl
@[simp] theorem rxMatchWrites_kd : (rxMatchWrites s).kd = s.kd := rfl
@[simp] theorem rxMatchWrites_txpay : (rxMatchWrites s).txpay = s.txpay := rfl
@[simp] theorem rxMatchWrites_txf : (rxMatchWrites s).txf = s.txf := rfl
@[simp] theorem rxMatchWrites_txN : (rxMatchWrites s).txN = s.txN := rfl
@[simp] theorem rxMatchWrites_txIdx : (rxMatchWrites s).txIdx = s.txIdx := rfl
@[simp] theorem rxMatchWrites_snap : (rxMatchWrites s).snap = s.snap := rfl
@[simp] theorem rxMatchWrites_snapValid : (rxMatchWrites s).snapValid = s.snapValid := rfl
@[simp] theorem rxMatchWrites_params : (rxMatchWrites s).params = s.params := rfl
@[simp] theorem rxMatchWrites_rxStream : (rxMatchWrites s).rxStream = s.rxStream := rfl
@[simp] theorem rxMatchWrites_rxTaken : (rxMatchWrites s).rxTaken = s.rxTaken := rfl
@[simp] theorem rxMatchWrites_wire : (rxMatchWrites s).wire = s.wire := rfl
@[simp] theorem rxMatchWrites_hRdata : (rxMatchWrites s).hRdata = s.hRdata := rfl
@[simp] theorem rxMatchWrites_schedule : (rxMatchWrites s).schedule = s.schedule := rfl

/-! ### writeTxpayWord -/

@[simp] theorem writeTxpayWord_rxState (j : Nat) (w : Word) : (writeTxpayWord j w s).rxState = s.rxState := rfl
@[simp] theorem writeTxpayWord_hdrAa (j : Nat) (w : Word) : (writeTxpayWord j w s).hdrAa = s.hdrAa := rfl
@[simp] theorem writeTxpayWord_rxLen (j : Nat) (w : Word) : (writeTxpayWord j w s).rxLen = s.rxLen := rfl
@[simp] theorem writeTxpayWord_rxIdx (j : Nat) (w : Word) : (writeTxpayWord j w s).rxIdx = s.rxIdx := rfl
@[simp] theorem writeTxpayWord_rxBuf (j : Nat) (w : Word) : (writeTxpayWord j w s).rxBuf = s.rxBuf := rfl
@[simp] theorem writeTxpayWord_failCnt (j : Nat) (w : Word) : (writeTxpayWord j w s).failCnt = s.failCnt := rfl
@[simp] theorem writeTxpayWord_rxValid (j : Nat) (w : Word) : (writeTxpayWord j w s).rxValid = s.rxValid := rfl
@[simp] theorem writeTxpayWord_rxSize (j : Nat) (w : Word) : (writeTxpayWord j w s).rxSize = s.rxSize := rfl
@[simp] theorem writeTxpayWord_busy (j : Nat) (w : Word) : (writeTxpayWord j w s).busy = s.busy := rfl
@[simp] theorem writeTxpayWord_op (j : Nat) (w : Word) : (writeTxpayWord j w s).op = s.op := rfl
@[simp] theorem writeTxpayWord_code (j : Nat) (w : Word) : (writeTxpayWord j w s).code = s.code := rfl
@[simp] theorem writeTxpayWord_arg0 (j : Nat) (w : Word) : (writeTxpayWord j w s).arg0 = s.arg0 := rfl
@[simp] theorem writeTxpayWord_arg1 (j : Nat) (w : Word) : (writeTxpayWord j w s).arg1 = s.arg1 := rfl
@[simp] theorem writeTxpayWord_kp (j : Nat) (w : Word) : (writeTxpayWord j w s).kp = s.kp := rfl
@[simp] theorem writeTxpayWord_ki (j : Nat) (w : Word) : (writeTxpayWord j w s).ki = s.ki := rfl
@[simp] theorem writeTxpayWord_kd (j : Nat) (w : Word) : (writeTxpayWord j w s).kd = s.kd := rfl
@[simp] theorem writeTxpayWord_txpay (j : Nat) (w : Word) : (writeTxpayWord j w s).txpay = Memory.writeList s.txpay (4 * j) (le32 w) := rfl
@[simp] theorem writeTxpayWord_txf (j : Nat) (w : Word) : (writeTxpayWord j w s).txf = s.txf := rfl
@[simp] theorem writeTxpayWord_txN (j : Nat) (w : Word) : (writeTxpayWord j w s).txN = s.txN := rfl
@[simp] theorem writeTxpayWord_txIdx (j : Nat) (w : Word) : (writeTxpayWord j w s).txIdx = s.txIdx := rfl
@[simp] theorem writeTxpayWord_snap (j : Nat) (w : Word) : (writeTxpayWord j w s).snap = s.snap := rfl
@[simp] theorem writeTxpayWord_snapValid (j : Nat) (w : Word) : (writeTxpayWord j w s).snapValid = s.snapValid := rfl
@[simp] theorem writeTxpayWord_params (j : Nat) (w : Word) : (writeTxpayWord j w s).params = s.params := rfl
@[simp] theorem writeTxpayWord_rxStream (j : Nat) (w : Word) : (writeTxpayWord j w s).rxStream = s.rxStream := rfl
@[simp] theorem writeTxpayWord_rxTaken (j : Nat) (w : Word) : (writeTxpayWord j w s).rxTaken = s.rxTaken := rfl
@[simp] theorem writeTxpayWord_wire (j : Nat) (w : Word) : (writeTxpayWord j w s).wire = s.wire := rfl
@[simp] theorem writeTxpayWord_hRdata (j : Nat) (w : Word) : (writeTxpayWord j w s).hRdata = s.hRdata := rfl
@[simp] theorem writeTxpayWord_schedule (j : Nat) (w : Word) : (writeTxpayWord j w s).schedule = s.schedule := rfl

/-! ### resetStep -/

@[simp] theorem resetStep_rxState : (resetStep s).rxState = .idle := rfl
@[simp] theorem resetStep_hdrAa : (resetStep s).hdrAa = false := rfl
@[simp] theorem resetStep_rxLen : (resetStep s).rxLen = 0 := rfl
@[simp] theorem resetStep_rxIdx : (resetStep s).rxIdx = 0 := rfl
@[simp] theorem resetStep_rxBuf : (resetStep s).rxBuf = [] := rfl
@[simp] theorem resetStep_failCnt : (resetStep s).failCnt = 0 := rfl
@[simp] theorem resetStep_rxValid : (resetStep s).rxValid = false := rfl
@[simp] theorem resetStep_rxSize : (resetStep s).rxSize = 0 := rfl
@[simp] theorem resetStep_busy : (resetStep s).busy = false := rfl
@[simp] theorem resetStep_op : (resetStep s).op = .noOp := rfl
@[simp] theorem resetStep_code : (resetStep s).code = .ok := rfl
@[simp] theorem resetStep_arg0 : (resetStep s).arg0 = 0 := rfl
@[simp] theorem resetStep_arg1 : (resetStep s).arg1 = 0 := rfl
@[simp] theorem resetStep_kp : (resetStep s).kp = 0 := rfl
@[simp] theorem resetStep_ki : (resetStep s).ki = 0 := rfl
@[simp] theorem resetStep_kd : (resetStep s).kd = 0 := rfl
@[simp] theorem resetStep_txpay : (resetStep s).txpay = [] := rfl
@[simp] theorem resetStep_txf : (resetStep s).txf = [] := rfl
@[simp] theorem resetStep_txN : (resetStep s).txN = 0 := rfl
@[simp] theorem resetStep_txIdx : (resetStep s).txIdx = 0 := rfl
@[simp] theorem resetStep_snap : (resetStep s).snap = Snapshot.zero := rfl
@[simp] theorem resetStep_snapValid : (resetStep s).snapValid = false := rfl
@[simp] theorem resetStep_params : (resetStep s).params = s.params := rfl
@[simp] theorem resetStep_rxStream : (resetStep s).rxStream = s.rxStream := rfl
@[simp] theorem resetStep_rxTaken : (resetStep s).rxTaken = s.rxTaken := rfl
@[simp] theorem resetStep_wire : (resetStep s).wire = s.wire := rfl
@[simp] theorem resetStep_hRdata : (resetStep s).hRdata = s.hRdata := rfl
@[simp] theorem resetStep_schedule : (resetStep s).schedule = s.schedule := rfl

end Sys2Proof.Machine
end

