-- ==== Sys2Proof/Laws/Ops.lean ====
section
/-! SUPPORT. What each shared operation and each engine can do, said once: if it answers, then one of these cases holds.
The provers cite these and do not unfold the operations. -/

namespace Sys2Proof.Machine

variable {s t : State}

/-! ### Outcomes -/

@[simp] theorem outcomeOf_eq_next {e : Except Fault State} : outcomeOf e = .next t ↔ e = .ok t := by
  cases e <;> simp [outcomeOf]

@[simp] theorem outcomeOf_eq_fault {e : Except Fault State} {f : Fault} : outcomeOf e = .fault f ↔ e = .error f := by
  cases e <;> simp [outcomeOf]

@[simp] theorem outcomeOf_ne_refused {e : Except Fault State} {r : Refusal} : outcomeOf e ≠ .refused r := by
  cases e <;> simp [outcomeOf]

theorem unlessBusy_busy {r : Result} (h : s.busy = true) : unlessBusy s r = .next s := if_pos h

theorem unlessBusy_idle {r : Result} (h : s.busy = false) : unlessBusy s r = r := if_neg (by simp [h])

theorem unlessBusy_cases {r : Result} (h : unlessBusy s r = .next t) :
    (s.busy = true ∧ t = s) ∨ (s.busy = false ∧ r = .next t) := by
  cases hb : s.busy with
  | true => rw [unlessBusy_busy hb] at h; cases h; exact .inl ⟨rfl, rfl⟩
  | false => rw [unlessBusy_idle hb] at h; exact .inr ⟨rfl, h⟩

/-! ### The frame -/

theorem cks_cons (b : Byte) (bs : List Byte) : cks (b :: bs) = b ^^^ cks bs := rfl

theorem frame_length (P : List Byte) : (frame P).length = P.length + 4 := by
  simp [frame]

theorem lengthByte_toNat {P : List Byte} (h : P.length ≤ 255) : (lengthByte P).toNat = P.length := by
  simp only [lengthByte, BitVec.toNat_ofNat]
  omega

/-- After the dispatch of an encode the buffer holds the frame. -/
theorem startTransmit_frame (o : OpCode) (P : List Byte) (s : State) :
    Memory.readList (startTransmit o P s).txf 0 (P.length + 4) = some (frame P) := by
  rw [startTransmit_txf, ← frame_length P]
  exact Memory.readList_writeList s.txf 0 (frame P)

/-! ### The Sensor Codec -/

theorem framePayload_eq_some {P : List Byte} :
    framePayload s = some P ↔
      ∃ L, Memory.read s.rxBuf 0 = some L ∧ Memory.readList s.rxBuf 1 L.toNat = some P := by
  unfold framePayload
  cases Memory.read s.rxBuf 0 <;> simp

/-- The decode of a payload: the whole snapshot, or nothing. -/
theorem decodeBuffer_cases {c : ResultCode} (h : decodeBuffer s = .ok (c, t)) :
    ∃ P, framePayload s = some P ∧
      ((layoutFits s.params.layout P.length = true ∧ c = .ok ∧
          t = { s with snap := snapshotOf s.params.layout P, snapValid := true }) ∨
        (layoutFits s.params.layout P.length = false ∧ c = .decodeShort ∧ t = s)) := by
  unfold decodeBuffer at h
  split at h
  · cases h
  · rename_i P hP
    refine ⟨P, hP, ?_⟩
    split at h
    · rename_i hf
      cases h
      exact .inl ⟨hf, rfl, rfl⟩
    · rename_i hf
      cases h
      exact .inr ⟨by simpa using hf, rfl, rfl⟩

theorem decodeBuffer_of_payload {P : List Byte} (h : framePayload s = some P) :
    decodeBuffer s =
      if layoutFits s.params.layout P.length = true then
        .ok (.ok, { s with snap := snapshotOf s.params.layout P, snapValid := true })
      else .ok (.decodeShort, s) := by
  simp [decodeBuffer, h]

theorem decodeBuffer_error {f : Fault} : decodeBuffer s = .error f ↔ framePayload s = none ∧ f = .rxBufUnspecified := by
  unfold decodeBuffer
  split
  · simp_all [eq_comm]
  · split <;> simp_all

theorem decodeCommand_cases (h : decodeCommand s = .ok t) :
    (s.rxValid = false ∧ t = { s with op := .decode, code := .noFrame }) ∨
    (s.rxValid = true ∧ ∃ P, framePayload s = some P ∧
      ((layoutFits s.params.layout P.length = true ∧
          t = { s with op := .decode, code := .ok, snap := snapshotOf s.params.layout P, snapValid := true }) ∨
        (layoutFits s.params.layout P.length = false ∧ t = { s with op := .decode, code := .decodeShort }))) := by
  unfold decodeCommand at h
  split at h
  · rename_i hv
    cases h
    exact .inl ⟨hv, rfl⟩
  · rename_i hv
    refine .inr ⟨by simpa using hv, ?_⟩
    split at h
    · cases h
    · rename_i c u hu
      cases h
      obtain ⟨P, hP, ⟨hf, rfl, rfl⟩ | ⟨hf, rfl, rfl⟩⟩ := decodeBuffer_cases hu
      · exact ⟨P, hP, .inl ⟨hf, rfl⟩⟩
      · exact ⟨P, hP, .inr ⟨hf, rfl⟩⟩

theorem decodeCommand_noFrame (h : s.rxValid = false) :
    decodeCommand s = .ok { s with op := .decode, code := .noFrame } := if_pos h

theorem decodeCommand_ok {P : List Byte} (hv : s.rxValid = true) (hP : framePayload s = some P)
    (hf : layoutFits s.params.layout P.length = true) :
    decodeCommand s =
      .ok { s with op := .decode, code := .ok, snap := snapshotOf s.params.layout P, snapValid := true } := by
  have hP' : framePayload { s with op := .decode } = some P := hP
  rw [decodeCommand, if_neg (by simp [hv]), decodeBuffer_of_payload hP', if_pos hf]

theorem decodeCommand_short {P : List Byte} (hv : s.rxValid = true) (hP : framePayload s = some P)
    (hf : layoutFits s.params.layout P.length = false) :
    decodeCommand s = .ok { s with op := .decode, code := .decodeShort } := by
  have hP' : framePayload { s with op := .decode } = some P := hP
  rw [decodeCommand, if_neg (by simp [hv]), decodeBuffer_of_payload hP', if_neg (by simp [hf])]

/-! ### The receive engine -/

theorem rxStore_cases {i : Nat} {b : Byte} (h : rxStore i b s = .ok t) :
    i < s.params.bufCap ∧ t = { s with rxBuf := Memory.write s.rxBuf i b } := by
  unfold rxStore at h
  split at h
  · rename_i hi
    cases h
    exact ⟨hi, rfl⟩
  · cases h

theorem rxStore_of_lt {i : Nat} (b : Byte) (h : i < s.params.bufCap) :
    rxStore i b s = .ok { s with rxBuf := Memory.write s.rxBuf i b } := if_pos h

theorem rxMatch_cases (h : rxMatch s = .ok t) :
    (s.op ≠ .poll ∧ t = finish .ok (rxMatchWrites s)) ∨
    (s.op = .poll ∧ ∃ P, framePayload s = some P ∧
      ((layoutFits s.params.layout P.length = true ∧
          t = finish .ok { rxMatchWrites s with snap := snapshotOf s.params.layout P, snapValid := true }) ∨
        (layoutFits s.params.layout P.length = false ∧ t = finish .decodeShort (rxMatchWrites s)))) := by
  unfold rxMatch at h
  split at h
  · rename_i ho
    refine .inr ⟨ho, ?_⟩
    split at h
    · cases h
    · rename_i c u hu
      cases h
      obtain ⟨P, hP, ⟨hf, rfl, rfl⟩ | ⟨hf, rfl, rfl⟩⟩ := decodeBuffer_cases hu
      · exact ⟨P, hP, .inl ⟨hf, rfl⟩⟩
      · exact ⟨P, hP, .inr ⟨hf, rfl⟩⟩
  · rename_i ho
    cases h
    exact .inl ⟨ho, rfl⟩

theorem rxMatch_recv (h : s.op ≠ .poll) : rxMatch s = .ok (finish .ok (rxMatchWrites s)) := if_neg h

theorem rxMatch_poll_ok {P : List Byte} (ho : s.op = .poll) (hP : framePayload s = some P)
    (hf : layoutFits s.params.layout P.length = true) :
    rxMatch s = .ok (finish .ok { rxMatchWrites s with snap := snapshotOf s.params.layout P, snapValid := true }) := by
  have hP' : framePayload (rxMatchWrites s) = some P := hP
  rw [rxMatch, if_pos ho, decodeBuffer_of_payload hP', if_pos (by simpa using hf)]
  rfl

theorem rxMatch_poll_short {P : List Byte} (ho : s.op = .poll) (hP : framePayload s = some P)
    (hf : layoutFits s.params.layout P.length = false) : rxMatch s = .ok (finish .decodeShort (rxMatchWrites s)) := by
  have hP' : framePayload (rxMatchWrites s) = some P := hP
  rw [rxMatch, if_pos ho, decodeBuffer_of_payload hP', if_neg (by simp [hf])]

theorem rxReadLength_of_le {b : Byte} (h : b.toNat + 2 ≤ s.params.bufCap) :
    rxReadLength b s = .ok { s with
      rxLen := b
      rxBuf := Memory.write s.rxBuf 0 b
      rxIdx := 1
      rxState := if b = 0x00#8 then .readChecksum else .readPayload } := by
  have hs : rxStore 0 b { s with rxLen := b } = .ok { s with rxLen := b, rxBuf := Memory.write s.rxBuf 0 b } :=
    rxStore_of_lt b (show 0 < s.params.bufCap by omega)
  rw [rxReadLength, if_neg (by omega), rxTakeLength, hs]

theorem rxReadPayload_of_lt {b : Byte} (h : s.rxIdx.toNat < s.params.bufCap) :
    rxReadPayload b s = .ok { s with
      rxBuf := Memory.write s.rxBuf s.rxIdx.toNat b
      rxIdx := s.rxIdx + 1
      rxState := if s.rxIdx + 1 = s.rxLen.setWidth 9 + 1 then .readChecksum else .readPayload } := by
  rw [rxReadPayload, rxStore_of_lt b h]

theorem rxReadChecksum_of_lt {b : Byte} {bytes : List Byte} (h : s.rxIdx.toNat < s.params.bufCap)
    (hb : Memory.readList (Memory.write s.rxBuf s.rxIdx.toNat b) 0 (s.rxLen.toNat + 1) = some bytes) :
    rxReadChecksum b s =
      if cks bytes = b then rxMatch { s with rxBuf := Memory.write s.rxBuf s.rxIdx.toNat b }
      else .ok (rxMismatch { s with rxBuf := Memory.write s.rxBuf s.rxIdx.toNat b }) := by
  rw [rxReadChecksum, rxStore_of_lt b h]
  simp only [hb]

/-- Everything a step of the receive engine can do. -/
theorem rxeStep_cases {e : RxEvent} (h : rxeStep e s = .ok t) :
    (e = .err ∧ t = finish .rxIo s) ∨
    ∃ b, e = .byte b ∧
      ((s.rxState = .awaitHeader ∧ t = rxAwaitHeader b s) ∨
        (s.rxState = .readLength ∧ s.params.bufCap < b.toNat + 2 ∧ t = finish .overrun { s with rxLen := b }) ∨
        (s.rxState = .readLength ∧ b.toNat + 2 ≤ s.params.bufCap ∧
          t = { s with
            rxLen := b
            rxBuf := Memory.write s.rxBuf 0 b
            rxIdx := 1
            rxState := if b = 0x00#8 then .readChecksum else .readPayload }) ∨
        (s.rxState = .readPayload ∧ s.rxIdx.toNat < s.params.bufCap ∧
          t = { s with
            rxBuf := Memory.write s.rxBuf s.rxIdx.toNat b
            rxIdx := s.rxIdx + 1
            rxState := if s.rxIdx + 1 = s.rxLen.setWidth 9 + 1 then .readChecksum else .readPayload }) ∨
        (s.rxState = .readChecksum ∧ s.rxIdx.toNat < s.params.bufCap ∧
          ∃ bytes, Memory.readList (Memory.write s.rxBuf s.rxIdx.toNat b) 0 (s.rxLen.toNat + 1) = some bytes ∧
            ((cks bytes = b ∧ rxMatch { s with rxBuf := Memory.write s.rxBuf s.rxIdx.toNat b } = .ok t) ∨
              (cks bytes ≠ b ∧ t = rxMismatch { s with rxBuf := Memory.write s.rxBuf s.rxIdx.toNat b })))) := by
  cases e with
  | err => cases h; exact .inl ⟨rfl, rfl⟩
  | byte b =>
    refine .inr ⟨b, rfl, ?_⟩
    simp only [rxeStep, rxByteStep] at h
    split at h
    · cases h
    · rename_i hs
      cases h
      exact .inl ⟨hs, rfl⟩
    · rename_i hs
      refine .inr ?_
      unfold rxReadLength at h
      split at h
      · rename_i hb
        cases h
        exact .inl ⟨hs, hb, rfl⟩
      · rename_i hb
        refine .inr (.inl ⟨hs, by omega, ?_⟩)
        unfold rxTakeLength at h
        split at h
        · cases h
        · rename_i u hu
          cases h
          obtain ⟨-, rfl⟩ := rxStore_cases hu
          rfl
    · rename_i hs
      refine .inr (.inr (.inr (.inl ⟨hs, ?_⟩)))
      unfold rxReadPayload at h
      split at h
      · cases h
      · rename_i u hu
        cases h
        obtain ⟨hi, rfl⟩ := rxStore_cases hu
        exact ⟨hi, rfl⟩
    · rename_i hs
      refine .inr (.inr (.inr (.inr ⟨hs, ?_⟩)))
      unfold rxReadChecksum at h
      split at h
      · cases h
      · rename_i u hu
        obtain ⟨hi, rfl⟩ := rxStore_cases hu
        refine ⟨hi, ?_⟩
        split at h
        · cases h
        · rename_i bytes hbytes
          refine ⟨bytes, hbytes, ?_⟩
          split at h
          · rename_i hc
            exact .inl ⟨hc, h⟩
          · rename_i hc
            cases h
            exact .inr ⟨hc, rfl⟩

/-- A turn of the receive engine: a step on the oldest event, or none. -/
theorem rxeTurn_cases (h : rxeTurn s = .next t) :
    ((rxReady s = false ∨ s.rxStream = []) ∧ t = s) ∨
    (rxReady s = true ∧ ∃ e es, s.rxStream = e :: es ∧
      rxeStep e { s with rxStream := es, rxTaken := s.rxTaken ++ [e] } = .ok t) := by
  unfold rxeTurn at h
  split at h
  · rename_i hr
    split at h
    · rename_i hs
      cases h
      exact .inl ⟨.inr hs, rfl⟩
    · rename_i e es hs
      exact .inr ⟨hr, e, es, hs, by simpa using h⟩
  · rename_i hr
    cases h
    exact .inl ⟨.inl (by simpa using hr), rfl⟩

/-! ### The transmit engine -/

theorem txeStep_cases {p : TxPins} (h : txeStep p s = .ok t) :
    (p.txErr = true ∧ t = finish .txIo s) ∨
    (p.txErr = false ∧ p.txReady = false ∧ t = s) ∨
    (p.txErr = false ∧ p.txReady = true ∧ ∃ b, Memory.read s.txf s.txIdx.toNat = some b ∧
      ((s.txIdx + 1 = s.txN ∧ t = finish .ok { s with wire := s.wire ++ [b], txIdx := s.txIdx + 1 }) ∨
        (s.txIdx + 1 ≠ s.txN ∧ t = { s with wire := s.wire ++ [b], txIdx := s.txIdx + 1 }))) := by
  unfold txeStep at h
  split at h
  · rename_i he
    cases h
    exact .inl ⟨he, rfl⟩
  · rename_i he
    refine .inr ?_
    split at h
    · rename_i hr
      refine .inr ⟨by simpa using he, hr, ?_⟩
      unfold txAccept txByte at h
      split at h
      · cases h
      · rename_i b hb
        refine ⟨b, hb, ?_⟩
        split at h
        · rename_i hn
          cases h
          exact .inl ⟨hn, rfl⟩
        · rename_i hn
          cases h
          exact .inr ⟨hn, rfl⟩
    · rename_i hr
      cases h
      exact .inl ⟨by simpa using he, by simpa using hr, rfl⟩

theorem txeTurn_cases {p : TxPins} (h : txeTurn p s = .next t) :
    (txValid s = false ∧ t = s) ∨ (txValid s = true ∧ txeStep p s = .ok t) := by
  unfold txeTurn at h
  split at h
  · rename_i hv
    exact .inr ⟨hv, by simpa using h⟩
  · rename_i hv
    cases h
    exact .inl ⟨by simpa using hv, rfl⟩

theorem rawCommand_cases (h : rawCommand s = .ok t) : ∃ P, rawPayload s = some P ∧ t = startTransmit .encRaw P s := by
  unfold rawCommand at h
  split at h
  · rename_i P hP
    cases h
    exact ⟨P, hP, rfl⟩
  · cases h

/-! ### The register port -/

theorem hostRead_cases {i : BitVec 10} (h : hostRead i s = .ok t) : ∃ w, view i s = .ok w ∧ t = { s with hRdata := w } := by
  unfold hostRead at h
  split at h
  · rename_i w hw
    cases h
    exact ⟨w, hw, rfl⟩
  · cases h

/-- What a host write changes: one operand register or one word of TXPAY, or nothing. -/
theorem hostWrite_cases (i : BitVec 10) (w : Word) (s : State) :
    hostWrite i w s = s ∨
    (∃ a, hostWrite i w s = { s with arg0 := a }) ∨ (∃ a, hostWrite i w s = { s with arg1 := a }) ∨
    (∃ a, hostWrite i w s = { s with kp := a }) ∨ (∃ a, hostWrite i w s = { s with ki := a }) ∨
    (∃ a, hostWrite i w s = { s with kd := a }) ∨
    (∃ j, j < 64 ∧ hostWrite i w s = writeTxpayWord j w s) := by
  unfold hostWrite
  cases hr : hostReg i with
  | none => exact .inl rfl
  | some r =>
    cases r with
    | cmd => exact .inl rfl
    | status => exact .inl rfl
    | arg0 => exact .inr (.inl ⟨_, rfl⟩)
    | arg1 => exact .inr (.inr (.inl ⟨_, rfl⟩))
    | kp => exact .inr (.inr (.inr (.inl ⟨_, rfl⟩)))
    | ki => exact .inr (.inr (.inr (.inr (.inl ⟨_, rfl⟩))))
    | kd => exact .inr (.inr (.inr (.inr (.inr (.inl ⟨_, rfl⟩)))))
    | rxSize => exact .inl rfl
    | config => exact .inl rfl
    | txpay j => exact .inr (.inr (.inr (.inr (.inr (.inr ⟨j.val, j.isLt, rfl⟩)))))
    | rxBuf _ => exact .inl rfl
    | snapBtn => exact .inl rfl
    | snapBump => exact .inl rfl
    | snapDrop => exact .inl rfl
    | snapEnc => exact .inl rfl
    | snapExtra _ => exact .inl rfl

theorem hostAccess_cases {p : HostPins} (h : hostAccess p s = .next t) :
    (p.hReq = false ∧ t = s) ∨
    (p.hReq = true ∧ p.hWe = true ∧ t = hostWrite p.hWidx p.hWdata s) ∨
    (p.hReq = true ∧ p.hWe = false ∧ ∃ w, view p.hWidx s = .ok w ∧ t = { s with hRdata := w }) := by
  unfold hostAccess at h
  split at h
  · rename_i hq
    cases h
    exact .inl ⟨hq, rfl⟩
  · rename_i hq
    split at h
    · rename_i hw
      cases h
      exact .inr (.inl ⟨by simpa using hq, hw, rfl⟩)
    · rename_i hw
      exact .inr (.inr ⟨by simpa using hq, by simpa using hw, hostRead_cases (by simpa using h)⟩)

end Sys2Proof.Machine
end

