-- ==== Sys2Proof/Laws/Exec.lean ====
section
/-! SUPPORT. What exec and step can do, said once. -/

namespace Sys2Proof.Machine

variable {s t : State}

/-- The operations that compose a frame. -/
inductive Encodes (s : State) : Instr → OpCode → List Byte → Prop where
  | raw (P : List Byte) (h : rawPayload s = some P) : Encodes s .encRaw .encRaw P
  | drive : Encodes s .encDrive .encDrive (drivePayload s)
  | pidDefault : Encodes s .encPidDefault .encPidDefault pidDefaultPayload
  | pidUser : Encodes s .encPidUser .encPidUser (pidUserPayload s)
  | sound : Encodes s .encSound .encSound (soundPayload s)
  | reqinfo : Encodes s .encReqinfo .encReqinfo reqinfoPayload

theorem rawPayload_length {P : List Byte} (h : rawPayload s = some P) : P.length ≤ 255 := by
  have h1 := ((Memory.readList_eq_some _ _ _ _).mp h).1
  have h2 : rawLength s < 2 ^ 8 := (lo8 s.arg0).isLt
  omega

/-- The payloads of the typed commands have at most 15 bytes, that of ENC_RAW at most 255. -/
theorem Encodes.payload_length {i : Instr} {o : OpCode} {P : List Byte} (h : Encodes s i o P) : P.length ≤ 255 := by
  cases h with
  | raw _ h => exact rawPayload_length h
  | drive => simp [drivePayload, le16]
  | pidDefault => simp [pidDefaultPayload]
  | pidUser => simp [pidUserPayload, le32]
  | sound => simp [soundPayload]
  | reqinfo => simp [reqinfoPayload]

theorem Encodes.isEncode {i : Instr} {o : OpCode} {P : List Byte} (h : Encodes s i o P) : o.isEncode = true := by
  cases h <;> rfl

/-- Everything the dispatch of an operation can do. -/
theorem exec_cases {i : Instr} (h : exec i s = .next t) :
    (s.busy = true ∧ t = s) ∨
    (s.busy = false ∧
      ((i = .recv ∧ t = startReceive .recv s) ∨ (i = .poll ∧ t = startReceive .poll s) ∨
        (i = .decode ∧ decodeCommand s = .ok t) ∨
        (∃ o P, Encodes s i o P ∧ t = startTransmit o P s) ∨
        ((i = .illegal0 ∨ (∃ c, i = .illegalAB c) ∨ ∃ c, i = .illegalCF c) ∧ t = illegalOperation s))) := by
  cases i with
  | poll => exact (unlessBusy_cases h).imp_right fun ⟨hb, h⟩ => ⟨hb, by cases h; exact .inr (.inl ⟨rfl, rfl⟩)⟩
  | recv => exact (unlessBusy_cases h).imp_right fun ⟨hb, h⟩ => ⟨hb, by cases h; exact .inl ⟨rfl, rfl⟩⟩
  | decode => exact (unlessBusy_cases h).imp_right fun ⟨hb, h⟩ => ⟨hb, .inr (.inr (.inl ⟨rfl, by simpa using h⟩))⟩
  | encRaw =>
    refine (unlessBusy_cases h).imp_right fun ⟨hb, h⟩ => ⟨hb, .inr (.inr (.inr (.inl ?_)))⟩
    obtain ⟨P, hP, rfl⟩ := rawCommand_cases (by simpa using h)
    exact ⟨_, P, .raw P hP, rfl⟩
  | encDrive =>
    exact (unlessBusy_cases h).imp_right fun ⟨hb, h⟩ =>
      ⟨hb, by cases h; exact .inr (.inr (.inr (.inl ⟨_, _, .drive, rfl⟩)))⟩
  | encPidDefault =>
    exact (unlessBusy_cases h).imp_right fun ⟨hb, h⟩ =>
      ⟨hb, by cases h; exact .inr (.inr (.inr (.inl ⟨_, _, .pidDefault, rfl⟩)))⟩
  | encPidUser =>
    exact (unlessBusy_cases h).imp_right fun ⟨hb, h⟩ =>
      ⟨hb, by cases h; exact .inr (.inr (.inr (.inl ⟨_, _, .pidUser, rfl⟩)))⟩
  | encSound =>
    exact (unlessBusy_cases h).imp_right fun ⟨hb, h⟩ =>
      ⟨hb, by cases h; exact .inr (.inr (.inr (.inl ⟨_, _, .sound, rfl⟩)))⟩
  | encReqinfo =>
    exact (unlessBusy_cases h).imp_right fun ⟨hb, h⟩ =>
      ⟨hb, by cases h; exact .inr (.inr (.inr (.inl ⟨_, _, .reqinfo, rfl⟩)))⟩
  | illegal0 =>
    exact (unlessBusy_cases h).imp_right fun ⟨hb, h⟩ =>
      ⟨hb, by cases h; exact .inr (.inr (.inr (.inr ⟨.inl rfl, rfl⟩)))⟩
  | illegalAB c =>
    exact (unlessBusy_cases h).imp_right fun ⟨hb, h⟩ =>
      ⟨hb, by cases h; exact .inr (.inr (.inr (.inr ⟨.inr (.inl ⟨c, rfl⟩), rfl⟩)))⟩
  | illegalCF c =>
    exact (unlessBusy_cases h).imp_right fun ⟨hb, h⟩ =>
      ⟨hb, by cases h; exact .inr (.inr (.inr (.inr ⟨.inr (.inr ⟨c, rfl⟩), rfl⟩)))⟩

/-! ### step, one lemma per turn -/

theorem step_rxe {ts : List Turn} (h : s.schedule = .rxe :: ts) : step s = rxeTurn (State.withSchedule ts s) := by
  simp [step, h]

theorem step_txe {p : TxPins} {ts : List Turn} (h : s.schedule = .txe p :: ts) :
    step s = txeTurn p (State.withSchedule ts s) := by
  simp [step, h]

theorem step_rst {ts : List Turn} (h : s.schedule = .rst :: ts) :
    step s = .next (resetStep (State.withSchedule ts s)) := by
  simp [step, h]

theorem step_host_register {p : HostPins} {r : DecodeReject} {ts : List Turn} (h : s.schedule = .host p :: ts)
    (hd : decodeAccess p = .error r) : step s = hostAccess p (State.withSchedule ts s) := by
  simp [step, h, hd]

/-- Everything a step can do, by whose turn it is. -/
theorem step_cases (h : step s = .next t) :
    (s.schedule = [] ∧ t = s) ∨
    ∃ ts,
      (∃ p i, s.schedule = .host p :: ts ∧ decodeAccess p = .ok i ∧ exec i (State.withSchedule ts s) = .next t) ∨
      (∃ p r, s.schedule = .host p :: ts ∧ decodeAccess p = .error r ∧
        hostAccess p (State.withSchedule ts s) = .next t) ∨
      (∃ p, s.schedule = .env p :: ts ∧ t = envOffer p (State.withSchedule ts s)) ∨
      (s.schedule = .rxe :: ts ∧ rxeTurn (State.withSchedule ts s) = .next t) ∨
      (∃ p, s.schedule = .txe p :: ts ∧ txeTurn p (State.withSchedule ts s) = .next t) ∨
      (s.schedule = .rst :: ts ∧ t = resetStep (State.withSchedule ts s)) := by
  cases hs : s.schedule with
  | nil =>
    simp only [step, hs] at h
    cases h
    exact .inl ⟨rfl, rfl⟩
  | cons turn ts =>
    refine .inr ⟨ts, ?_⟩
    cases turn with
    | host p =>
      simp only [step, hs] at h
      split at h
      · rename_i i hd
        exact .inl ⟨p, i, rfl, hd, h⟩
      · rename_i r hd
        exact .inr (.inl ⟨p, r, rfl, hd, h⟩)
    | env p =>
      simp only [step, hs] at h
      cases h
      exact .inr (.inr (.inl ⟨p, rfl, rfl⟩))
    | rxe => exact .inr (.inr (.inr (.inl ⟨rfl, step_rxe hs ▸ h⟩)))
    | txe p => exact .inr (.inr (.inr (.inr (.inl ⟨p, rfl, step_txe hs ▸ h⟩))))
    | rst =>
      rw [step_rst hs] at h
      cases h
      exact .inr (.inr (.inr (.inr (.inr ⟨rfl, rfl⟩))))

/-- Every step takes its turn off the schedule, and touches nothing behind it. -/
theorem step_schedule (h : step s = .next t) : t.schedule = s.schedule.tail := by
  rcases step_cases h with ⟨hs, rfl⟩ | ⟨ts, ⟨p, i, hs, -, h⟩ | ⟨p, r, hs, -, h⟩ | ⟨p, hs, rfl⟩ | ⟨hs, h⟩ | ⟨p, hs, h⟩ | ⟨hs, rfl⟩⟩
  all_goals rw [hs]
  · rfl
  · rcases exec_cases h with ⟨-, rfl⟩ | ⟨-, ⟨rfl, rfl⟩ | ⟨rfl, rfl⟩ | ⟨rfl, hd⟩ | ⟨o, P, -, rfl⟩ | ⟨-, rfl⟩⟩
    all_goals try rfl
    rcases decodeCommand_cases hd with ⟨-, rfl⟩ | ⟨-, P, -, ⟨-, rfl⟩ | ⟨-, rfl⟩⟩ <;> rfl
  · rcases hostAccess_cases h with ⟨-, rfl⟩ | ⟨-, -, rfl⟩ | ⟨-, -, w, -, rfl⟩
    · rfl
    · rcases hostWrite_cases p.hWidx p.hWdata (State.withSchedule ts s) with
        h | ⟨a, h⟩ | ⟨a, h⟩ | ⟨a, h⟩ | ⟨a, h⟩ | ⟨a, h⟩ | ⟨j, -, h⟩ <;> rw [h] <;> rfl
    · rfl
  · rfl
  · rcases rxeTurn_cases h with ⟨-, rfl⟩ | ⟨-, e, es, -, h⟩
    · rfl
    · rcases rxeStep_cases h with ⟨-, rfl⟩ | ⟨b, -, ⟨-, rfl⟩ | ⟨-, -, rfl⟩ | ⟨-, -, rfl⟩ | ⟨-, -, rfl⟩ |
        ⟨-, -, bytes, -, ⟨-, h⟩ | ⟨-, rfl⟩⟩⟩
      all_goals try rfl
      · unfold rxAwaitHeader
        split <;> rfl
      · rcases rxMatch_cases h with ⟨-, rfl⟩ | ⟨-, P, -, ⟨-, rfl⟩ | ⟨-, rfl⟩⟩ <;> rfl
      · unfold rxMismatch
        split <;> rfl
  · rcases txeTurn_cases h with ⟨-, rfl⟩ | ⟨-, h⟩
    · rfl
    · rcases txeStep_cases h with ⟨-, rfl⟩ | ⟨-, -, rfl⟩ | ⟨-, -, b, -, ⟨-, rfl⟩ | ⟨-, rfl⟩⟩ <;> rfl
  · rfl

end Sys2Proof.Machine
end

