-- ==== Sys2Proof/Laws/PerInstr.lean ====
section
/-! SUPPORT. One lemma per constructor of Instr: the family RowWord says that the CMD word of a well-formed instruction
lies in its row of spec/opcode_table.json (30_encoding.md R82, R83). -/

namespace Sys2Proof.Laws.RowWord

/-- The encoding of a well-formed instruction lies in its row of the opcode table. -/
def Statement (i : Instr) : Prop :=
  i.wf = true → encodeWord i &&& (opcodeRow i).mask = (opcodeRow i).value

theorem poll : Statement .poll := fun _ => rfl

theorem recv : Statement .recv := fun _ => rfl

theorem decode : Statement .decode := fun _ => rfl

theorem encRaw : Statement .encRaw := fun _ => rfl

theorem encDrive : Statement .encDrive := fun _ => rfl

theorem encPidDefault : Statement .encPidDefault := fun _ => rfl

theorem encPidUser : Statement .encPidUser := fun _ => rfl

theorem encSound : Statement .encSound := fun _ => rfl

theorem encReqinfo : Statement .encReqinfo := fun _ => rfl

theorem illegal0 : Statement .illegal0 := fun _ => rfl

theorem illegalAB (code : BitVec 4) : Statement (.illegalAB code) := by
  revert code
  unfold Statement
  decide

theorem illegalCF (code : BitVec 4) : Statement (.illegalCF code) := by
  revert code
  unfold Statement
  decide

end Sys2Proof.Laws.RowWord
end

