-- ==== Sys2Proof/Laws/Register.lean ====
section
/-! SUPPORT. The register map read both ways, and the words of the byte windows. -/

namespace Sys2Proof.Machine

theorem controlReg_index {n : Nat} {r : HostReg} (h : controlReg n = some r) : n = regIndex r := by
  unfold controlReg at h
  split at h <;> cases h <;> rfl

theorem snapReg_index {n : Nat} {r : HostReg} (h : snapReg n = some r) : 0x100 + n = regIndex r := by
  unfold snapReg at h
  split at h <;> cases h <;> rfl

theorem hostReg_index {i : BitVec 10} {r : HostReg} (h : hostReg i = some r) : i.toNat = regIndex r := by
  unfold hostReg at h
  split at h
  · exact controlReg_index h
  · split at h
    · cases h
      simp only [regIndex, Fin.val_ofNat]
      omega
    · split at h
      · cases h
        simp only [regIndex, Fin.val_ofNat]
        omega
      · split at h
        · cases h
        · split at h
          · have := snapReg_index h
            omega
          · split at h
            · cases h
              simp only [regIndex, Fin.val_ofNat]
              omega
            · cases h

theorem hostReg_txpay {i : BitVec 10} (j : Fin 64) (h : i.toNat = 0x040 + j.val) : hostReg i = some (.txpay j) := by
  have : Fin.ofNat 64 (i.toNat - 0x040) = j := Fin.ext (by rw [Fin.val_ofNat]; omega)
  rw [hostReg, if_neg (by omega), if_pos (by omega), this]

theorem hostReg_rxBuf {i : BitVec 10} (j : Fin 65) (h : i.toNat = 0x080 + j.val) : hostReg i = some (.rxBuf j) := by
  have : Fin.ofNat 65 (i.toNat - 0x080) = j := Fin.ext (by rw [Fin.val_ofNat]; omega)
  rw [hostReg, if_neg (by omega), if_neg (by omega), if_pos (by omega), this]

theorem hostReg_snapExtra {i : BitVec 10} (j : Fin 16) (h : i.toNat = 0x104 + j.val) :
    hostReg i = some (.snapExtra j) := by
  have : Fin.ofNat 16 (i.toNat - 0x104) = j := Fin.ext (by rw [Fin.val_ofNat]; omega)
  rw [hostReg, if_neg (by omega), if_neg (by omega), if_neg (by omega), if_neg (by omega), if_neg (by omega),
    if_pos (by omega), this]

/-- A register stands at exactly one word index. -/
theorem hostReg_eq_some {i : BitVec 10} {r : HostReg} : hostReg i = some r ↔ i.toNat = regIndex r := by
  refine ⟨hostReg_index, fun h => ?_⟩
  cases r with
  | txpay j => exact hostReg_txpay j h
  | rxBuf j => exact hostReg_rxBuf j h
  | snapExtra j => exact hostReg_snapExtra j h
  | _ => rw [hostReg, h]; rfl

/-- A word index that is no register's is unmapped. -/
theorem hostReg_eq_none {i : BitVec 10} (h : ∀ r, i.toNat ≠ regIndex r) : hostReg i = none := by
  cases hr : hostReg i with
  | none => rfl
  | some r => exact absurd (hostReg_eq_some.mp hr) (h r)

theorem view_of_index {i : BitVec 10} {r : HostReg} (s : State) (h : i.toNat = regIndex r) : view i s = regView r s := by
  rw [view, hostReg_eq_some.mpr h]

theorem hostWrite_of_index {i : BitVec 10} {r : HostReg} (w : Word) (s : State) (h : i.toNat = regIndex r) :
    hostWrite i w s = regWrite r w s := by
  rw [hostWrite, hostReg_eq_some.mpr h]

/-! ### Words and their bytes -/

theorem byteOfWord_wordOfBytes (b0 b1 b2 b3 : Byte) :
    (wordOfBytes b0 b1 b2 b3).extractLsb' 0 8 = b0 ∧ (wordOfBytes b0 b1 b2 b3).extractLsb' 8 8 = b1 ∧
      (wordOfBytes b0 b1 b2 b3).extractLsb' 16 8 = b2 ∧ (wordOfBytes b0 b1 b2 b3).extractLsb' 24 8 = b3 := by
  unfold wordOfBytes
  refine ⟨?_, ?_, ?_, ?_⟩ <;>
  · apply BitVec.eq_of_getLsbD_eq
    intro i hi
    simp only [BitVec.getLsbD_extractLsb', BitVec.getLsbD_append, hi, decide_true, Bool.true_and]
    repeat' split
    all_goals first
      | omega
      | (congr 1; omega)

theorem wordOfBytes_byteOfWord (w : Word) :
    wordOfBytes (byteOfWord w 0) (byteOfWord w 1) (byteOfWord w 2) (byteOfWord w 3) = w := by
  unfold wordOfBytes byteOfWord
  apply BitVec.eq_of_getLsbD_eq
  intro i hi
  simp only [BitVec.getLsbD_extractLsb', BitVec.getLsbD_append]
  repeat' split
  all_goals first
    | omega
    | (simp only [show i < 8 by omega, decide_true, Bool.true_and]; congr 1; omega)
    | (simp only [show i - 8 < 8 by omega, decide_true, Bool.true_and]; congr 1; omega)
    | (simp only [show i - 8 - 8 < 8 by omega, decide_true, Bool.true_and]; congr 1; omega)
    | (simp only [show i - 8 - 8 - 8 < 8 by omega, decide_true, Bool.true_and]; congr 1; omega)

end Sys2Proof.Machine
end

