-- ==== Sys2Proof/Laws/Run.lean ====
section
/-! SUPPORT. Runs of several steps, peeled one step at a time, and when one ends. -/

namespace Sys2Proof.Machine

theorem core_run_succ (M : Host.Core) {n : Nat} {s u : M.State} (h : M.step s = .next u) :
    Host.Core.run M (n + 1) s = Host.Core.run M n u := by
  simp only [Host.Core.run, h]

theorem run_zero (s : State) : Host.Core.run Sys2Proof.core 0 s = .next s := rfl

/-- A run begins with its first step. -/
theorem run_succ {n : Nat} {s u : State} (h : step s = .next u) :
    Host.Core.run Sys2Proof.core (n + 1) s = Host.Core.run Sys2Proof.core n u := core_run_succ Sys2Proof.core h

theorem core_run_add (M : Host.Core) {n m : Nat} {s u : M.State} (h : Host.Core.run M n s = .next u) :
    Host.Core.run M (n + m) s = Host.Core.run M m u := by
  induction n generalizing s with
  | zero =>
    cases h
    rw [Nat.zero_add]
  | succ n ih =>
    rw [Nat.succ_add]
    simp only [Host.Core.run] at h ⊢
    split at h
    · exact ih h
    · cases h
    · cases h

/-- A run may be cut anywhere. -/
theorem run_add {n m : Nat} {s u : State} (h : Host.Core.run Sys2Proof.core n s = .next u) :
    Host.Core.run Sys2Proof.core (n + m) s = Host.Core.run Sys2Proof.core m u := core_run_add Sys2Proof.core h

/-- No access of the host is left exactly when no HOST turn with h_req = 1 is. -/
theorem hostDone_iff (s : State) : s.hostDone = true ↔ ∀ p : HostPins, .host p ∈ s.schedule → p.hReq = false := by
  simp only [State.hostDone, List.all_eq_true, Bool.not_eq_true']
  exact ⟨fun h p hp => h _ hp, fun h turn ht => by cases turn <;> first | rfl | exact h _ ht⟩

theorem runEnded_iff (s : State) : s.runEnded = true ↔ s.hostDone = true ∧ s.busy = false := by
  simp [State.runEnded]

/-- A run that has ended takes no more steps. -/
theorem runToEnd_ended {n : Nat} {s : State} (h : s.runEnded = true) : runToEnd n s = .ended s.endState := by
  cases n <;> exact if_pos h

theorem runToEnd_next {n : Nat} {s t : State} (h : s.runEnded = false) (hs : step s = .next t) :
    runToEnd (n + 1) s = runToEnd n t := by
  rw [runToEnd, if_neg (by simp [h]), hs]

theorem runToEnd_fault {n : Nat} {s : State} {f : Fault} (h : s.runEnded = false) (hs : step s = .fault f) :
    runToEnd (n + 1) s = .stopped f := by
  rw [runToEnd, if_neg (by simp [h]), hs]

end Sys2Proof.Machine
end

