-- ==== Sys2Proof/Tests/Slice0.lean ====
section
/-! SUPPORT. Small tests, each on one step or one function, with expected values from spec/95_test_vectors.md (the vector's
name stands in the docstring) or worked out by hand from the rules; and a witness for the hypotheses of every statement. -/

namespace Sys2Proof.Tests

open Sys2Proof Sys2Proof.Machine

/-! ### Helpers -/

/-- The example layout XL of 42_sensor_codec.md R168. It is used in tests only. -/
def xl : SensorLayout :=
  { btn0 := .bit 0 0, btn1 := .bit 0 1, btn2 := .bit 0 2
    bumpL := .bit 1 0, bumpC := .bit 1 1, bumpR := .bit 1 2
    dropL := .bit 2 0, dropC := .absent, dropR := .bit 2 1
    encL := .u16 3, encR := .u16 5
    extra := Vector.replicate 16 .absent }

/-- The default parameters with XL. -/
def params : Params := { failCap := 3, bufCap := 257, rxSizeBias := 3, layout := xl }

/-- The machine right after reset with those parameters. -/
def start : State := State.resetWith params

/-- Consecutive bytes of a buffer from address `a` on. -/
def cells (a : Nat) : List Byte → Memory
  | [] => []
  | b :: bs => (a, b) :: cells (a + 1) bs

/-- A view of the next state. -/
def viewNext {α : Type} (r : Result) (f : State → α) : Option α :=
  match r with
  | .next s => some (f s)
  | .fault _ => none
  | .refused _ => none

/-- What a host read of STATUS would show. -/
def status (s : State) : Option Word := (view 0x001#10 s).toOption

/-- The machine after reset with the host about to write a CMD word. -/
def command (s : State) (w : Word) : State := State.withSchedule [.host (cmdWrite w)] s

/-- A receive in AWAIT_HEADER. -/
def awaiting (o : OpCode) : State := startReceive o start

/-- A receive of the length-7 payload of CV1 at its checksum. -/
def atChecksum (o : OpCode) : State :=
  { awaiting o with
    rxState := .readChecksum
    rxLen := 7
    rxIdx := 8
    rxBuf := cells 0 [0x07#8, 0x05#8, 0x01#8, 0x03#8, 0x34#8, 0x12#8, 0xFF#8, 0xFF#8] }

/-- A receive of the one-byte payload 07 at its checksum. -/
def atShortChecksum (o : OpCode) (fails : Byte) : State :=
  { awaiting o with
    rxState := .readChecksum
    rxLen := 1
    rxIdx := 2
    rxBuf := cells 0 [0x01#8, 0x07#8]
    failCnt := fails }

/-- A receive in READ_LENGTH. -/
def atLength (o : OpCode) : State := { awaiting o with rxState := .readLength }

/-- A receive of two payload bytes, none of them there yet. -/
def atPayload (o : OpCode) : State :=
  { awaiting o with rxState := .readPayload, rxLen := 2, rxIdx := 1, rxBuf := cells 0 [0x02#8] }

/-- The machine with an event offered and the RXE next. -/
def offered (e : RxEvent) (s : State) : State := { s with rxStream := [e], schedule := [.rxe] }

/-- The machine after CV1: a valid frame in rx_buf. -/
def holding : State :=
  { start with
    rxValid := true
    op := .recv
    rxLen := 7
    rxIdx := 8
    rxSize := 10
    rxBuf := cells 0 [0x07#8, 0x05#8, 0x01#8, 0x03#8, 0x34#8, 0x12#8, 0xFF#8, 0xFF#8, 0x26#8] }

/-- ENC_REQINFO with `n` of its 8 bytes sent. -/
def sendingInfo (n : Nat) : State :=
  { startTransmit .encReqinfo reqinfoPayload start with
    txIdx := BitVec.ofNat 9 n
    wire := (frame reqinfoPayload).take n }

/-! ### Well-formed terms and layouts -/

/-- 30_encoding.md R83: 0xC is no code of the row 0xA..0xB. -/
theorem test_wf_refuses_illegalAB : (Instr.illegalAB 0xC#4).wf = false := by decide

/-- 30_encoding.md R83: 0x3 is no code of the row 0xC..0xF. -/
theorem test_wf_refuses_illegalCF : (Instr.illegalCF 0x3#4).wf = false := by decide

/-- A table of XL's flags and encoders, with a given descriptor for BTN0 and for ENC_L, and every EXTRA absent. -/
def table (btn0 encL : Descriptor) : RawLayout :=
  [(.btn0, btn0), (.btn1, .bit 0 1), (.btn2, .bit 0 2), (.bumpL, .bit 1 0), (.bumpC, .bit 1 1), (.bumpR, .bit 1 2),
    (.dropL, .bit 2 0), (.dropC, .absent), (.dropR, .bit 2 1), (.encL, encL), (.encR, .u16 5)]
    ++ extraFields.map (fun f => (f, .absent))

/-- 42_sensor_codec.md R162, R168. -/
theorem test_layout_xl_accepted : acceptLayout (table (.bit 0 0) (.u16 3)) = some xl := by decide

/-- 93_implementation_defined.md I6: a button given U16, an encoder given BIT, a field missing. -/
theorem test_layout_refused :
    acceptLayout (table (.u16 0) (.u16 3)) = none ∧ acceptLayout (table (.bit 0 0) (.bit 3 0)) = none ∧
      acceptLayout ((table (.bit 0 0) (.u16 3)).tail) = none := by decide

/-- notes/assumptions/4: a table that names BTN0 twice is refused, with two BIT entries and with one entry repeated. -/
theorem test_layout_refuses_duplicate :
    acceptLayout ((.btn0, .bit 0 3) :: table (.bit 0 0) (.u16 3)) = none ∧
      acceptLayout ((.btn0, .bit 0 0) :: table (.bit 0 0) (.u16 3)) = none := by decide

/-! ### Decoding, a word of each row written out from 30_encoding.md R82, R83 -/

theorem test_decode_poll : decodeCmd 0b00000000000000000000000000000001#32 = .poll := by decide
theorem test_decode_recv : decodeCmd 0b00000000000000000000000000000010#32 = .recv := by decide
theorem test_decode_decode : decodeCmd 0b00000000000000000000000000000011#32 = .decode := by decide
theorem test_decode_encRaw : decodeCmd 0b00000000000000000000000000000100#32 = .encRaw := by decide
theorem test_decode_encDrive : decodeCmd 0b11111111111111111111111111110101#32 = .encDrive := by decide
theorem test_decode_encPidDefault : decodeCmd 0b00000000000000000000000000000110#32 = .encPidDefault := by decide
theorem test_decode_encPidUser : decodeCmd 0b00000000000000000000000000000111#32 = .encPidUser := by decide
theorem test_decode_encSound : decodeCmd 0b00000000000000000000000000001000#32 = .encSound := by decide
theorem test_decode_encReqinfo : decodeCmd 0b00000000000000000000000000001001#32 = .encReqinfo := by decide
theorem test_decode_illegal0 : decodeCmd 0b11111111111111111111111111110000#32 = .illegal0 := by decide
theorem test_decode_illegalAB :
    decodeCmd 0b00000000000000000000000000001010#32 = .illegalAB 0xA#4 ∧
      decodeCmd 0b00000000000000000000000000001011#32 = .illegalAB 0xB#4 := by decide
theorem test_decode_illegalCF :
    decodeCmd 0b00000000000000000000000000001100#32 = .illegalCF 0xC#4 ∧
      decodeCmd 0b00000000000000000000000000001111#32 = .illegalCF 0xF#4 := by decide

/-- Accesses that are no CMD write are refused by name. -/
theorem test_decode_rejects :
    decodeAccess ⟨false, true, 0x000, 0x1⟩ = .error .noAccess ∧
      decodeAccess ⟨true, false, 0x000, 0x1⟩ = .error .readAccess ∧
      decodeAccess ⟨true, true, 0x001, 0x1⟩ = .error .otherRegister := by decide

/-- The word placed by withFetchWord is the one the next step runs. -/
theorem test_fetch_word :
    viewNext (step (State.reset.withFetchWord 32 0x5)) (fun t => (t.op, t.busy)) = some (.encDrive, true) := by decide

/-! ### The receiver -/

/-- Example of R102: the window slides, so the 0x55 after `AA AA` completes a header; RV4: after `AA 00` it does not. -/
theorem test_header_window :
    rxAwaitHeader 0x55#8 (rxAwaitHeader 0xAA#8 (rxAwaitHeader 0xAA#8 (awaiting .recv))) = atLength .recv ∧
      (rxAwaitHeader 0x55#8 (rxAwaitHeader 0x00#8 (rxAwaitHeader 0xAA#8 (awaiting .recv)))).rxState = .awaitHeader := by
  decide

/-- RV1: RECV's last byte. -/
theorem test_recv_match :
    viewNext
        (step (offered (.byte 0x03#8)
          { awaiting .recv with
            rxState := .readChecksum
            rxLen := 3
            rxIdx := 4
            rxBuf := cells 0 [0x03#8, 0x01#8, 0x02#8, 0x03#8] }))
        (fun t => (status t, t.rxSize, t.rxBuf)) =
      some (some 0x02000002, 6, cells 0 [0x03#8, 0x01#8, 0x02#8, 0x03#8, 0x03#8]) := by decide

/-- RV8: the mismatch that reaches the cap; and RV6's first mismatch, which does not. -/
theorem test_recv_mismatch :
    viewNext (step (offered (.byte 0x00#8) (atShortChecksum .recv 2))) status = some (some 0x02030020) ∧
      viewNext (step (offered (.byte 0x00#8) (atShortChecksum .recv 0))) (fun t => (t.failCnt, t.rxState, t.rxIdx)) =
        some (1, .awaitHeader, 0) := by decide

/-- RV13: BUF_CAP = 140 and the length byte 8B; RV14's 8A fits. -/
theorem test_recv_overrun :
    let s := { atLength .recv with params := { params with bufCap := 140 } }
    viewNext (step (offered (.byte 0x8B#8) s)) (fun t => (status t, t.rxBuf)) = some (some 0x02000040, []) ∧
      viewNext (step (offered (.byte 0x8A#8) s)) (fun t => (t.rxState, t.rxBuf)) =
        some (.readPayload, [(0, 0x8A#8)]) := by decide

/-- RV18: an error event in READ_CHECKSUM. -/
theorem test_recv_error :
    viewNext (step (offered .err (atShortChecksum .recv 1))) (fun t => (status t, t.failCnt)) =
      some (some 0x02010010, 1) := by decide

/-- CV1: POLL's last byte decodes in the same step. -/
theorem test_poll_decodes :
    viewNext (step (offered (.byte 0x26#8) (atChecksum .poll)))
        (fun t => (status t, (view 0x100#10 t).toOption, (view 0x101#10 t).toOption, (view 0x102#10 t).toOption,
          (view 0x103#10 t).toOption)) =
      some (some 0x01000006, some 0x5, some 0x1, some 0x5, some 0xFFFF1234) := by decide

/-- As CV6: a payload XL does not fit leaves the frame valid and the snapshot unspecified. -/
theorem test_poll_short :
    viewNext (step (offered (.byte 0x06#8) (atShortChecksum .poll 0)))
        (fun t => (status t, view 0x100#10 t)) =
      some (some 0x01000052, .error .snapshotUnspecified) := by decide

/-! ### DECODE and descriptors -/

/-- DV1: after reset. -/
theorem test_decode_noFrame : viewNext (exec .decode start) status = some (some 0x03000060) := by decide

/-- DV2: the frame of CV1. -/
theorem test_decode_ok :
    viewNext (exec .decode holding) (fun t => (status t, (view 0x103#10 t).toOption)) =
      some (some 0x03000006, some 0xFFFF1234) := by decide

/-- The table of descriptor values in spec/95_test_vectors.md section 2.3. -/
theorem test_descriptor_values :
    let P := [0x80#8, 0xFF#8, 0x7F#8, 0x01#8, 0x02#8, 0x03#8, 0x04#8]
    descValue (.bit 0 7) P = 1 ∧ descValue (.u8 0) P = 0x80 ∧ descValue (.s8 0) P = 0xFFFFFF80 ∧
      descValue (.u16 1) P = 0x7FFF ∧ descValue (.s16 1) P = 0x7FFF ∧ descValue (.s16 0) P = 0xFFFFFF80 ∧
      descValue (.u32 3) P = 0x04030201 ∧ descValue .absent P = 0 := by decide

/-! ### The encoder -/

/-- What the dispatch of an encode puts into txf, and tx_n. -/
def composed (i : Instr) (s : State) : Option (Memory × Nat) := viewNext (exec i s) (fun t => (t.txf, t.txN.toNat))

/-- EV6, with the operands of P4. -/
theorem test_encRaw :
    composed .encRaw { start with arg0 := 5, txpay := cells 0 [0x01#8, 0x02#8, 0xAA#8, 0x55#8, 0x00#8] } =
      some (cells 0 [0xAA#8, 0x55#8, 0x05#8, 0x01#8, 0x02#8, 0xAA#8, 0x55#8, 0x00#8, 0xF9#8], 9) := by decide

/-- EV3: the high byte of ARG0 is ignored; and with n = 1 an unwritten TXPAY byte is a fault (I1). -/
theorem test_encRaw_edges :
    composed .encRaw { start with arg0 := 0x1A00 } = some (cells 0 [0xAA#8, 0x55#8, 0x00#8, 0x00#8], 4) ∧
      rawCommand { start with arg0 := 1 } = .error .txpayUnspecified := by decide

/-- EV8. -/
theorem test_encDrive :
    composed .encDrive { start with arg0 := 0xFF9C, arg1 := 0x0001 } =
      some (cells 0 [0xAA#8, 0x55#8, 0x06#8, 0x01#8, 0x04#8, 0x9C#8, 0xFF#8, 0x01#8, 0x00#8, 0x61#8], 10) := by decide

/-- EV11. -/
theorem test_encDrive_extremes :
    composed .encDrive { start with arg0 := 0x7FFF, arg1 := 0x8000 } =
      some (cells 0 [0xAA#8, 0x55#8, 0x06#8, 0x01#8, 0x04#8, 0xFF#8, 0x7F#8, 0x00#8, 0x80#8, 0x03#8], 10) := by decide

/-- EV15, over a buffer that held something else. -/
theorem test_encPidDefault :
    composed .encPidDefault { start with txf := [(5, 0x77#8)] } =
      some (cells 0 ([0xAA#8, 0x55#8, 0x0F#8, 0x0D#8, 0x0D#8] ++ List.replicate 13 0x00#8 ++ [0x0F#8]), 19) := by decide

/-- EV17. -/
theorem test_encPidUser :
    composed .encPidUser { start with kp := 0xFFFFFFFF, ki := 0, kd := 0x12345678 } =
      some (cells 0 [0xAA#8, 0x55#8, 0x0F#8, 0x0D#8, 0x0D#8, 0x01#8, 0xFF#8, 0xFF#8, 0xFF#8, 0xFF#8, 0x00#8, 0x00#8,
        0x00#8, 0x00#8, 0x78#8, 0x56#8, 0x34#8, 0x12#8, 0x06#8], 19) := by decide

/-- EV16. -/
theorem test_encPidUser_order :
    composed .encPidUser { start with kp := 1000, ki := 100, kd := 10 } =
      some (cells 0 [0xAA#8, 0x55#8, 0x0F#8, 0x0D#8, 0x0D#8, 0x01#8, 0xE8#8, 0x03#8, 0x00#8, 0x00#8, 0x64#8, 0x00#8,
        0x00#8, 0x00#8, 0x0A#8, 0x00#8, 0x00#8, 0x00#8, 0x8B#8], 19) := by decide

/-- EV22: the high byte of ARG0 is ignored. -/
theorem test_encSound :
    composed .encSound { start with arg0 := 0xAB07 } =
      some (cells 0 [0xAA#8, 0x55#8, 0x03#8, 0x04#8, 0x01#8, 0x07#8, 0x01#8], 7) := by decide

/-- EV23. -/
theorem test_encReqinfo :
    composed .encReqinfo start =
      some (cells 0 [0xAA#8, 0x55#8, 0x04#8, 0x09#8, 0x02#8, 0x0B#8, 0x00#8, 0x04#8], 8) := by decide

/-- EX3: seven bytes accepted, then an error on the checksum. -/
theorem test_transmit_error :
    viewNext (step { sendingInfo 7 with schedule := [.txe ⟨true, true⟩] }) (fun t => (status t, t.wire)) =
      some (some 0x09000030, [0xAA#8, 0x55#8, 0x04#8, 0x09#8, 0x02#8, 0x0B#8, 0x00#8]) := by decide

/-- EV23's last byte accepted. -/
theorem test_transmit_last :
    viewNext (step { sendingInfo 7 with schedule := [.txe ⟨true, false⟩] }) (fun t => (status t, t.wire)) =
      some (some 0x09000000, [0xAA#8, 0x55#8, 0x04#8, 0x09#8, 0x02#8, 0x0B#8, 0x00#8, 0x04#8]) := by decide

/-! ### The host interface -/

/-- HV1, HV2, HV4, HV5. -/
theorem test_reads_after_reset :
    view 0x001#10 start = .ok 0x00000000 ∧ view 0x008#10 start = .ok 0x00070103 ∧ view 0x000#10 start = .ok 0 ∧
      view 0x3FF#10 start = .ok 0 := by decide

/-- HV3, HV15: BUF_CAP 140 and bias 2. -/
theorem test_config_140 :
    let s := State.resetWith { params with bufCap := 140, rxSizeBias := 2 }
    view 0x008#10 s = .ok 0x00048C03 ∧ view 0x0A3#10 s = .ok 0x00000000 := by decide

/-- HV6, HV7. -/
theorem test_host_writes :
    view 0x002#10 (hostWrite 0x002#10 0xFFFFFF9C start) = .ok 0x0000FF9C ∧
      (hostWrite 0x040#10 0x55AA0201 start).txpay = cells 0 [0x01#8, 0x02#8, 0xAA#8, 0x55#8] := by decide

/-- P2: RXBUF[0] and RXBUF[1] of the frame of CV1; RXBUF[2] has bytes never written. -/
theorem test_rxbuf_words :
    view 0x080#10 holding = .ok 0x03010507 ∧ view 0x081#10 holding = .ok 0xFFFF1234 ∧
      view 0x082#10 holding = .error .rxBufUnspecified := by decide

/-- HV8, HV9. -/
theorem test_illegal_codes :
    viewNext (step (command start 0xF)) status = some (some 0x00000070) ∧
      viewNext (step (command start 0x0)) status = some (some 0x00000070) ∧
      viewNext (step (command start 0xA)) status = some (some 0x00000070) := by decide

/-- HV11, HV12: a CMD write while a RECV waits is dropped, whatever its code is. -/
theorem test_busy_drops :
    viewNext (step (command (awaiting .recv) 0x5)) (fun t => (status t, t.txf)) = some (some 0x02000101, []) ∧
      viewNext (step (command (awaiting .recv) 0x0)) status = some (some 0x02000101) := by decide

/-- The one form of a buffer does not depend on the order of the writes. -/
theorem test_memory_form :
    Memory.write (Memory.write [] 7 0x01#8) 3 0x02#8 = [(3, 0x02#8), (7, 0x01#8)] ∧
      Memory.write [(3, 0x02#8), (7, 0x01#8)] 7 0x09#8 = [(3, 0x02#8), (7, 0x09#8)] := by decide

/-! ### States that meet the invariant -/

theorem witness_inv_start : start.Inv := by
  constructor <;> first | decide | simp [start, State.resetWith]

theorem witness_inv_awaiting (o : OpCode) (h : o = .recv ∨ o = .poll) : (awaiting o).Inv := by
  rcases h with rfl | rfl <;>
  · constructor <;> first | decide | simp [awaiting, startReceive, start, State.resetWith, OpCode.isEncode]

theorem witness_inv_atLength (o : OpCode) (h : o = .recv ∨ o = .poll) : (atLength o).Inv := by
  rcases h with rfl | rfl <;>
  · constructor <;> first | decide | simp [atLength, awaiting, startReceive, start, State.resetWith, OpCode.isEncode]

theorem witness_inv_atPayload (o : OpCode) (h : o = .recv ∨ o = .poll) : (atPayload o).Inv := by
  rcases h with rfl | rfl <;>
  · constructor <;> first | decide | simp [atPayload, awaiting, startReceive, start, State.resetWith, OpCode.isEncode]

theorem witness_inv_atChecksum (o : OpCode) (h : o = .recv ∨ o = .poll) : (atChecksum o).Inv := by
  rcases h with rfl | rfl <;>
  · constructor <;> first | decide | simp [atChecksum, awaiting, startReceive, start, State.resetWith, OpCode.isEncode]

theorem witness_inv_atShortChecksum (o : OpCode) (h : o = .recv ∨ o = .poll) (n : Byte)
    (hn : n = 0 ∨ n = 2 ∨ n = 3) : (atShortChecksum o n).Inv := by
  rcases h with rfl | rfl <;> rcases hn with rfl | rfl | rfl <;>
  · constructor <;> first
      | decide
      | simp [atShortChecksum, awaiting, startReceive, start, State.resetWith, OpCode.isEncode]

theorem witness_inv_holding : holding.Inv := by
  constructor <;> first
    | decide
    | exact fun _ => ⟨7, [0x05#8, 0x01#8, 0x03#8, 0x34#8, 0x12#8, 0xFF#8, 0xFF#8], by decide, by decide, by decide, by decide⟩
    | simp [holding, start, State.resetWith]

theorem witness_inv_sendingInfo (n : Nat) (h : n = 0 ∨ n = 7) : (sendingInfo n).Inv := by
  rcases h with rfl | rfl <;>
  · constructor <;> first
      | decide
      | exact fun _ _ => ⟨reqinfoPayload, [], by decide, by decide, by decide, by decide, by decide⟩
      | simp [sendingInfo, startTransmit, start, State.resetWith]

/-- What is offered and whose turn comes next is free in the invariant, and so is the host port. -/
theorem inv_offering {s : State} (h : s.Inv) (es : List RxEvent) (ts : List Turn) :
    ({ s with rxStream := es, schedule := ts } : State).Inv := by
  cases h
  constructor <;> assumption

/-! ### A witness for the hypotheses of each statement -/

theorem witness_DecodeEncodeAgree :
    (Instr.illegalAB 0xA#4).wf = true ∧ (Instr.illegalAB 0xB#4).wf = true ∧ (Instr.illegalCF 0xC#4).wf = true ∧
      (Instr.illegalCF 0xF#4).wf = true ∧ Instr.poll.wf = true := by decide

theorem witness_OpcodeRowsPartition : ∃ (w : Word) (r : OpcodeRow), r ∈ opcodeRows ∧ w &&& r.mask = r.value :=
  ⟨0xFFFFFFFB, opcodeRow (.illegalAB 0xA#4), by decide, by decide⟩

theorem witness_CmdHighBitsIgnored : ∀ k : Nat, k < 4 → (0x5#32).getLsbD k = (0xFFFFFFF5#32).getLsbD k := by decide

theorem witness_StepRunsDecodedInstruction :
    (command start 0x1).schedule = .host (cmdWrite 0x1) :: [] ∧ decodeAccess (cmdWrite 0x1) = .ok .poll := by decide

theorem witness_DisabledTurnsChangeNothing :
    start.schedule = [] ∧
      (State.withSchedule [.rxe] start).schedule = .rxe :: [] ∧ ¬ (start.busy = true ∧ start.op.isReceive = true) ∧
      (awaiting .recv).rxStream = [] ∧
      (State.withSchedule [.txe ⟨false, false⟩] start).schedule = .txe ⟨false, false⟩ :: [] ∧
      ¬ (start.busy = true ∧ start.op.isEncode = true) ∧
      (State.withSchedule [.host ⟨false, true, 0, 1⟩] start).schedule = .host ⟨false, true, 0, 1⟩ :: [] := by decide

theorem witness_CmdWriteDispatches :
    (command start 0x1).schedule = .host ⟨true, true, 0x000, 0x1⟩ :: [] ∧ (command start 0x1).busy = false ∧
      (command (awaiting .recv) 0x1).busy = true ∧
      (0x00000001#32).toNat % 16 = 0x1 ∧ (0xFFFFFFF2#32).toNat % 16 = 0x2 ∧ (0x00000003#32).toNat % 16 = 0x3 ∧
      (0x00000004#32).toNat % 16 = 0x4 ∧ (0x00000005#32).toNat % 16 = 0x5 ∧ (0x00000006#32).toNat % 16 = 0x6 ∧
      (0x00000007#32).toNat % 16 = 0x7 ∧ (0x00000008#32).toNat % 16 = 0x8 ∧ (0x00000009#32).toNat % 16 = 0x9 ∧
      (0x00000010#32).toNat % 16 = 0x0 ∧ 0xA ≤ (0x0000000A#32).toNat % 16 ∧ 0xA ≤ (0xFFFFFFFF#32).toNat % 16 := by
  decide

theorem witness_CmdChecksInOrder :
    (awaiting .recv).busy = true ∧ start.busy = false ∧ (0x0#32).toNat % 16 = 0x0 ∧ 0xA ≤ (0xA#32).toNat % 16 ∧
      start.rxValid = false := by decide

theorem witness_IllegalCodesReport : start.busy = false := by decide

theorem witness_ReceiveStarts : holding.busy = false := by decide

/-- The three cases; XL needs exactly 7 bytes, and the frame of CV5 has 6. -/
theorem witness_DecodeCommandResult :
    (start.busy = false ∧ start.rxValid = false) ∧
      (holding.busy = false ∧ holding.rxValid = true ∧ Memory.read holding.rxBuf 0 = some 0x07#8 ∧
        Memory.readList holding.rxBuf 1 7 = some [0x05#8, 0x01#8, 0x03#8, 0x34#8, 0x12#8, 0xFF#8, 0xFF#8] ∧
        ∀ f : SnapField, descOffset (layoutDesc xl f) + descWidth (layoutDesc xl f) ≤ 7) ∧
      (∃ s : State, s.busy = false ∧ s.rxValid = true ∧ Memory.read s.rxBuf 0 = some 0x06#8 ∧
        Memory.readList s.rxBuf 1 6 = some [0x01#8, 0x02#8, 0x03#8, 0x04#8, 0x05#8, 0x06#8] ∧
        ∃ f : SnapField, 6 < descOffset (layoutDesc s.params.layout f) + descWidth (layoutDesc s.params.layout f)) := by
  refine ⟨by decide, ⟨by decide, by decide, by decide, by decide, fun f => ?_⟩,
    ⟨{ holding with rxBuf := cells 0 [0x06#8, 0x01#8, 0x02#8, 0x03#8, 0x04#8, 0x05#8, 0x06#8, 0x01#8] },
      by decide, by decide, by decide, by decide, .encR, by decide⟩⟩
  cases f with
  | extra i => revert i; decide
  | _ => decide

theorem witness_DecodeRepeats : holding.busy = false ∧ ∃ t, exec .decode holding = .next t := ⟨by decide, _, rfl⟩

/-- Each descriptor reads up to the last byte of the payload. -/
theorem witness_DescriptorValues :
    3 < [0x80#8, 0xFF#8, 0x7F#8, 0x01#8].length ∧ 2 + 1 < [0x80#8, 0xFF#8, 0x7F#8, 0x01#8].length ∧
      0 + 3 < [0x80#8, 0xFF#8, 0x7F#8, 0x01#8].length ∧
      framePayload holding = some [0x05#8, 0x01#8, 0x03#8, 0x34#8, 0x12#8, 0xFF#8, 0xFF#8] := by decide

/-- A table accepted, read at both ends of its fields; and tables with a field named twice, next to each other and apart. -/
theorem witness_LayoutsAccepted :
    acceptLayout (table (.bit 0 0) .absent) = some { xl with encL := .absent } ∧
      ((table (.bit 0 0) .absent).map Prod.fst).Nodup ∧ (.btn0, .bit 0 0) ∈ table (.bit 0 0) .absent ∧
      (.extra 15, .absent) ∈ table (.bit 0 0) .absent ∧
      [(.btn0, .absent)] ++ table (.bit 0 0) .absent =
        [] ++ [(.btn0, .absent)] ++ [] ++ [(.btn0, .bit 0 0)] ++ (table (.bit 0 0) .absent).tail ∧
      table (.bit 0 0) .absent ++ [(.btn0, .bit 0 0)] =
        [] ++ [(.btn0, .bit 0 0)] ++ (table (.bit 0 0) .absent).tail ++ [(.btn0, .bit 0 0)] ++ [] := by decide

theorem witness_EncDriveComposes : start.busy = false := by decide

theorem witness_EncPidDefaultComposes : holding.busy = false := by decide

theorem witness_EncPidUserComposes : start.busy = false := by decide

theorem witness_EncSoundComposes : holding.busy = false := by decide

theorem witness_EncReqinfoComposes : start.busy = false := by decide

set_option maxRecDepth 4000 in
/-- n = 0 and n = 255, with bits of ARG0[15:8] set. -/
theorem witness_EncRawComposes :
    (start.busy = false ∧ Memory.readList start.txpay 0 ((0xFF00#16).toNat % 256) = some []) ∧
      Memory.readList (cells 0 (List.replicate 255 0xAA#8)) 0 ((0x12FF#16).toNat % 256) =
        some (List.replicate 255 0xAA#8) := by decide

/-- Byte 0 of a payload of one byte; and with n = 0 nothing stops. -/
theorem witness_EncRawStopsOnUnwritten :
    start.busy = false ∧ 0 < (0x0001#16).toNat % 256 ∧ Memory.read start.txpay 0 = none ∧
      ∃ t, exec .encRaw start = .next t := ⟨by decide, by decide, by decide, _, rfl⟩

theorem witness_SendingKeepsReceiveState :
    start.Inv ∧ (∃ t, exec .encReqinfo start = .next t) ∧ (sendingInfo 0).Inv ∧
      (∃ t, step (State.withSchedule [.txe ⟨true, false⟩] (sendingInfo 0)) = .next t) ∧
      (sendingInfo 0).busy = true ∧ (sendingInfo 0).op.isEncode = true ∧
      (State.withSchedule [.rxe] (sendingInfo 0)).schedule = .rxe :: [] :=
  ⟨witness_inv_start, ⟨_, rfl⟩, witness_inv_sendingInfo 0 (.inl rfl), ⟨_, rfl⟩, by decide, by decide, by decide⟩

/-- The first byte, and the last one. -/
theorem witness_TransmitStep :
    ((sendingInfo 0).busy = true ∧ (sendingInfo 0).op.isEncode = true ∧
        Memory.read (sendingInfo 0).txf 0 = some 0xAA#8 ∧ (sendingInfo 0).txIdx + 1 ≠ (sendingInfo 0).txN) ∧
      ((sendingInfo 7).busy = true ∧ Memory.read (sendingInfo 7).txf 7 = some 0x04#8 ∧
        (sendingInfo 7).txIdx + 1 = (sendingInfo 7).txN) := by decide

theorem witness_EnvironmentOffers :
    (State.withSchedule [.env ⟨0x55#8, true, true⟩] start).schedule = .env ⟨0x55#8, true, true⟩ :: [] ∧
      (State.withSchedule [.env ⟨0x55#8, true, false⟩] start).schedule = .env ⟨0x55#8, true, false⟩ :: [] ∧
      (State.withSchedule [.env ⟨0x55#8, false, false⟩] start).schedule = .env ⟨0x55#8, false, false⟩ :: [] := by
  decide

/-- The window open and closed, on 0x55, 0xAA and another byte. -/
theorem witness_HeaderWindow :
    State.taking (offered (.byte 0x55#8) { awaiting .recv with hdrAa := true }) [] (.byte 0x55#8) [] ∧
      State.taking (offered (.byte 0x55#8) (awaiting .recv)) [] (.byte 0x55#8) [] ∧
      State.taking (offered (.byte 0xAA#8) (awaiting .poll)) [] (.byte 0xAA#8) [] ∧
      (awaiting .recv).rxState = .awaitHeader ∧ (awaiting .recv).hdrAa = false ∧ 0xAA#8 ≠ 0x55#8 :=
  ⟨⟨rfl, rfl, rfl, rfl⟩, ⟨rfl, rfl, rfl, rfl⟩, ⟨rfl, rfl, rfl, rfl⟩, rfl, rfl, by decide⟩

/-- BUF_CAP = 140 with 8A, which fits, and 8B, which does not; BUF_CAP = 257 with FF and 00. -/
theorem witness_LengthByte :
    State.taking (offered (.byte 0x8B#8) { atLength .recv with params := { params with bufCap := 140 } }) []
        (.byte 0x8B#8) [] ∧
      (atLength .recv).rxState = .readLength ∧ 140 < (0x8B#8).toNat + 2 ∧ (0x8A#8).toNat + 2 ≤ 140 ∧
      State.taking (offered (.byte 0x00#8) (atLength .poll)) [] (.byte 0x00#8) [] ∧
      (atLength .poll).params.bufCap = 257 ∧ (0xFF#8).toNat + 2 ≤ 257 :=
  ⟨⟨rfl, rfl, rfl, rfl⟩, rfl, by decide, by decide, ⟨rfl, rfl, rfl, rfl⟩, rfl, by decide⟩

theorem witness_PayloadByte :
    (offered (.byte 0xAA#8) (atPayload .recv)).Inv ∧
      State.taking (offered (.byte 0xAA#8) (atPayload .recv)) [] (.byte 0xAA#8) [] ∧
      (atPayload .recv).rxState = .readPayload :=
  ⟨inv_offering (witness_inv_atPayload .recv (.inl rfl)) _ _, ⟨rfl, rfl, rfl, rfl⟩, rfl⟩

/-- RECV; POLL with a payload that just fits XL; POLL with one that does not. -/
theorem witness_ChecksumMatch :
    ((offered (.byte 0x06#8) (atShortChecksum .recv 3)).Inv ∧
        State.taking (offered (.byte 0x06#8) (atShortChecksum .recv 3)) [] (.byte 0x06#8) [] ∧
        Memory.readList (atShortChecksum .recv 3).rxBuf 1 1 = some [0x07#8] ∧ 0x06#8 = cks [0x01#8, 0x07#8]) ∧
      ((offered (.byte 0x26#8) (atChecksum .poll)).Inv ∧
        State.taking (offered (.byte 0x26#8) (atChecksum .poll)) [] (.byte 0x26#8) [] ∧
        Memory.readList (atChecksum .poll).rxBuf 1 7 =
          some [0x05#8, 0x01#8, 0x03#8, 0x34#8, 0x12#8, 0xFF#8, 0xFF#8] ∧
        0x26#8 = cks [0x07#8, 0x05#8, 0x01#8, 0x03#8, 0x34#8, 0x12#8, 0xFF#8, 0xFF#8] ∧ layoutFits xl 7 = true) ∧
      ((offered (.byte 0x06#8) (atShortChecksum .poll 0)).Inv ∧ layoutFits xl 6 = false ∧ layoutFits xl 1 = false) :=
  ⟨⟨inv_offering (witness_inv_atShortChecksum .recv (.inl rfl) 3 (.inr (.inr rfl))) _ _, ⟨rfl, rfl, rfl, rfl⟩,
      by decide, by decide⟩,
    ⟨inv_offering (witness_inv_atChecksum .poll (.inr rfl)) _ _, ⟨rfl, rfl, rfl, rfl⟩, by decide, by decide, by decide⟩,
    ⟨inv_offering (witness_inv_atShortChecksum .poll (.inr rfl) 0 (.inl rfl)) _ _, by decide, by decide⟩⟩

/-- Below the cap, at the mismatch that reaches it, and at the cap. -/
theorem witness_ChecksumMismatch :
    (offered (.byte 0x00#8) (atShortChecksum .recv 0)).Inv ∧ (offered (.byte 0x00#8) (atShortChecksum .recv 2)).Inv ∧
      (offered (.byte 0x00#8) (atShortChecksum .poll 3)).Inv ∧
      State.taking (offered (.byte 0x00#8) (atShortChecksum .recv 2)) [] (.byte 0x00#8) [] ∧
      Memory.readList (atShortChecksum .recv 2).rxBuf 1 1 = some [0x07#8] ∧ 0x00#8 ≠ cks [0x01#8, 0x07#8] ∧
      (atShortChecksum .recv 0).failCnt.toNat + 1 < params.failCap ∧
      params.failCap ≤ (atShortChecksum .recv 2).failCnt.toNat + 1 :=
  ⟨inv_offering (witness_inv_atShortChecksum .recv (.inl rfl) 0 (.inl rfl)) _ _,
    inv_offering (witness_inv_atShortChecksum .recv (.inl rfl) 2 (.inr (.inl rfl))) _ _,
    inv_offering (witness_inv_atShortChecksum .poll (.inr rfl) 3 (.inr (.inr rfl))) _ _,
    ⟨rfl, rfl, rfl, rfl⟩, by decide, by decide, by decide, by decide⟩

theorem witness_ReceiveError :
    State.taking (offered .err (atChecksum .poll)) [] .err [] ∧ (offered .err (atChecksum .poll)).Inv ∧
      ∃ t, step (offered .err (atChecksum .poll)) = .next t :=
  ⟨⟨rfl, rfl, rfl, rfl⟩, inv_offering (witness_inv_atChecksum .poll (.inr rfl)) _ _, _, rfl⟩

/-- A host read of word `i`. -/
def reading (i : BitVec 10) (s : State) : State := State.withSchedule [.host ⟨true, false, i, 0⟩] s

theorem witness_HostReadsOnlyLook :
    (reading 0x001 start).schedule = .host ⟨true, false, 0x001, 0⟩ :: [] ∧ view 0x001 (reading 0x001 start) = .ok 0 ∧
      view 0x040 (reading 0x040 start) = .error .txpayUnspecified := by decide

/-- The operand registers, both ends of the TXPAY window, and words on either side of each. -/
theorem witness_HostWrites :
    (State.withSchedule [.host ⟨true, true, 0x002, 5⟩] start).schedule = .host ⟨true, true, 0x002, 5⟩ :: [] ∧
      (0x040#10).toNat = 0x040 + 0 ∧ (0x07F#10).toNat = 0x040 + 63 ∧
      (∀ i, i ∈ [0x001#10, 0x007#10, 0x03F#10, 0x080#10, 0x3FF#10] →
        i.toNat ≠ 0x000 ∧ (i.toNat < 0x002 ∨ 0x006 < i.toNat) ∧ (i.toNat < 0x040 ∨ 0x07F < i.toNat)) := by decide

theorem witness_TxpayWindow :
    (0x040#10).toNat = 0x040 + 0 ∧ (0x07F#10).toNat = 0x040 + 63 ∧
      Memory.readList (cells 252 [0x01#8, 0x02#8, 0x03#8, 0x04#8]) (4 * 63) 4 =
        some [0x01#8, 0x02#8, 0x03#8, 0x04#8] ∧
      Memory.read start.txpay (4 * 63 + 3) = none := by decide

/-- The first word, the last one (its byte 256 below BUF_CAP = 257, the three above it not), and word 35 at
BUF_CAP = 140. -/
theorem witness_RxbufWindow :
    (0x080#10).toNat = 0x080 + 0 ∧ (0x0C0#10).toNat = 0x080 + 64 ∧
      view 0x080#10 holding = .ok 0x03010507 ∧
      view 0x0C0#10 { holding with rxBuf := [(256, 0x00#8)] } = .ok 0 ∧
      4 * 64 + 0 < params.bufCap ∧ params.bufCap ≤ 4 * 64 + 1 ∧ Memory.read holding.rxBuf (4 * 64 + 0) = none ∧
      140 ≤ 4 * 35 + 0 := by decide

theorem witness_ConfigConstant : (∃ t, step (command start 0x1) = .next t) ∧ params.wf := ⟨⟨_, rfl⟩, by decide⟩

theorem witness_RegisterViews :
    ({ holding with snapValid := true } : State).snapValid = true ∧ start.snapValid = false ∧
      (0x104#10).toNat = 0x104 + (0 : Fin 16).val ∧ (0x113#10).toNat = 0x104 + (15 : Fin 16).val ∧
      0x100 ≤ (0x100#10).toNat ∧ (0x113#10).toNat ≤ 0x113 := by decide

/-- The first and the last word of each unmapped range. -/
theorem witness_UnmappedWords :
    (∀ i, i ∈ [0x009#10, 0x03F#10, 0x0C1#10, 0x0FF#10, 0x114#10, 0x3FF#10] →
      (0x009 ≤ i.toNat ∧ i.toNat ≤ 0x03F) ∨ (0x0C1 ≤ i.toNat ∧ i.toNat ≤ 0x0FF) ∨ 0x114 ≤ i.toNat) ∧
      (0xFFFF0005#32).extractLsb' 0 16 = (0x00000005#32).extractLsb' 0 16 ∧
      view 0x001#10 holding = .ok 0x02000002 ∧ view 0x100#10 { holding with snapValid := true } = .ok 0 := by decide

theorem witness_ResetStep :
    (State.withSchedule [.rst] (sendingInfo 7)).schedule = .rst :: [] ∧ (sendingInfo 7).busy = true := by decide

theorem witness_ResetLeavesBuffersUnspecified :
    params.wf ∧ (State.withSchedule [.rst] holding).schedule = .rst :: [] ∧
      (∃ t, step (State.withSchedule [.rst] holding) = .next t) :=
  ⟨by decide, by decide, _, rfl⟩

/-- Both ends of every range. -/
theorem witness_ResetMeetsInvariant :
    ({ failCap := 1, bufCap := 140, rxSizeBias := 2, layout := xl } : Params).wf ∧
      ({ failCap := 255, bufCap := 257, rxSizeBias := 3, layout := xl } : Params).wf := by decide

theorem witness_StepKeepsInvariant :
    (offered (.byte 0x26#8) (atChecksum .poll)).Inv ∧ (∃ t, step (offered (.byte 0x26#8) (atChecksum .poll)) = .next t) ∧
      (∃ t, step (State.withSchedule [.txe ⟨true, false⟩] (sendingInfo 7)) = .next t) :=
  ⟨inv_offering (witness_inv_atChecksum .poll (.inr rfl)) _ _, ⟨_, rfl⟩, ⟨_, rfl⟩⟩

/-- A host read that has a value, and an ENC_RAW of no bytes. -/
theorem witness_StepGoesOn :
    ((reading 0x001 holding).Inv ∧ (reading 0x001 holding).readsSpecified) ∧
      (command start 0x4).Inv ∧ (command start 0x4).readsSpecified := by
  refine ⟨⟨inv_offering witness_inv_holding [] _, fun p ts h _ => ?_⟩, inv_offering witness_inv_start [] _,
    fun p ts h _ => ?_⟩
  · cases h
    exact ⟨fun _ => ⟨0x02000002, by decide⟩, fun hd => (by cases hd)⟩
  · cases h
    exact ⟨fun hw => (by cases hw), fun _ _ => ⟨[], by decide⟩⟩

/-- Each of the three faults. -/
theorem witness_OnlyUnspecifiedReadsStop :
    (command { start with arg0 := 1 } 0x4).Inv ∧
      step (command { start with arg0 := 1 } 0x4) = .fault .txpayUnspecified ∧
      (reading 0x080 start).Inv ∧ step (reading 0x080 start) = .fault .rxBufUnspecified ∧
      (reading 0x100 start).Inv ∧ step (reading 0x100 start) = .fault .snapshotUnspecified := by
  refine ⟨?_, rfl, inv_offering witness_inv_start [] _, rfl, inv_offering witness_inv_start [] _, rfl⟩
  have h := witness_inv_start
  cases h
  constructor <;> assumption

/-- A match, a mismatch, and a reset. -/
theorem witness_FailCountRule :
    (offered (.byte 0x06#8) (atShortChecksum .recv 2)).Inv ∧
      viewNext (step (offered (.byte 0x06#8) (atShortChecksum .recv 2))) (fun t => t.failCnt) = some 0 ∧
      viewNext (step (offered (.byte 0x00#8) (atShortChecksum .recv 2))) (fun t => t.failCnt) = some 3 ∧
      (State.withSchedule [.rst] (atShortChecksum .recv 2)).Inv ∧
      viewNext (step (State.withSchedule [.rst] (atShortChecksum .recv 2))) (fun t => t.failCnt) = some 0 ∧
      (atShortChecksum .recv 2).failCnt = 2 :=
  ⟨inv_offering (witness_inv_atShortChecksum .recv (.inl rfl) 2 (.inr (.inl rfl))) _ _, by decide, by decide,
    inv_offering (witness_inv_atShortChecksum .recv (.inl rfl) 2 (.inr (.inl rfl))) [] _, by decide, rfl⟩

theorem witness_SnapshotRule :
    ∃ t, step (command holding 0x3) = .next t ∧ t.snap ≠ (command holding 0x3).snap := ⟨_, rfl, by decide⟩

theorem witness_ReceiveOrder : ∃ t, step (offered (.byte 0xAA#8) (awaiting .recv)) = .next t := ⟨_, rfl⟩

theorem witness_TransmitOrder :
    ∃ t, step (State.withSchedule [.txe ⟨true, false⟩] (sendingInfo 0)) = .next t ∧ t.wire ≠ (sendingInfo 0).wire :=
  ⟨_, rfl, by decide⟩

theorem witness_HostDoesNotDisturb :
    (command (sendingInfo 7) 0x5).busy = true ∧ ∃ t, step (command (sendingInfo 7) 0x5) = .next t :=
  ⟨by decide, _, rfl⟩

theorem witness_CodeWrittenAtTheEnd :
    (∃ t, step (command start 0xF) = .next t ∧ t.code ≠ start.code) ∧
      (∃ t, step (offered .err (awaiting .recv)) = .next t ∧ t.code ≠ start.code) :=
  ⟨⟨_, rfl, by decide⟩, ⟨_, rfl, by decide⟩⟩

/-- A receive with `es` offered and turns of the RXE to take `n` events. -/
def receiving (o : OpCode) (es : List RxEvent) (n : Nat) : State :=
  { awaiting o with rxStream := es, schedule := List.replicate n .rxe ++ [.rst] }

/-- The empty payload, and one of 255 bytes; under RECV and under POLL. -/
theorem witness_EncodedFramesAccepted :
    (receiving .recv ((frame []).map RxEvent.byte ++ [.err]) 4).Inv ∧
      (receiving .poll ((frame (List.replicate 255 0xAA#8)).map RxEvent.byte ++ []) 259).Inv ∧
      (awaiting .poll).rxState = .awaitHeader ∧ (List.replicate 255 0xAA#8).length ≤ 255 ∧
      (List.replicate 255 0xAA#8).length + 2 ≤ params.bufCap :=
  ⟨inv_offering (witness_inv_awaiting .recv (.inl rfl)) _ _, inv_offering (witness_inv_awaiting .poll (.inr rfl)) _ _,
    rfl, by rw [List.length_replicate], by rw [List.length_replicate]; decide⟩

/-- T3 (RV5). -/
theorem witness_GarbageThenFrameAccepted :
    (receiving .recv (([0x12#8, 0x34#8, 0xAA#8, 0x56#8] ++ frame [0x10#8, 0x20#8]).map RxEvent.byte ++ []) 10).Inv ∧
      (awaiting .recv).rxState = .awaitHeader ∧ (awaiting .recv).hdrAa = false ∧ (awaiting .recv).op = .recv ∧
      (∀ pre post : List Byte, [0x12#8, 0x34#8, 0xAA#8, 0x56#8] ≠ pre ++ [0xAA#8, 0x55#8] ++ post) := by
  refine ⟨inv_offering (witness_inv_awaiting .recv (.inl rfl)) _ _, rfl, rfl, rfl, fun pre post h => ?_⟩
  rcases pre with _ | ⟨a, _ | ⟨b, _ | ⟨c, _ | ⟨d, pre⟩⟩⟩⟩ <;> simp at h

/-- A whole frame to send, and its last byte; the frame in txf is ENC_REQINFO's. -/
theorem witness_TransmissionCompletes :
    (State.withSchedule (List.replicate 8 (.txe ⟨true, false⟩) ++ [.rst]) (sendingInfo 0)).Inv ∧
      8 = (sendingInfo 0).txN.toNat - (sendingInfo 0).txIdx.toNat ∧
      Memory.readList (sendingInfo 0).txf 0 8 = some (frame reqinfoPayload) ∧
      (State.withSchedule (List.replicate 1 (.txe ⟨true, false⟩) ++ []) (sendingInfo 7)).Inv ∧
      1 = (sendingInfo 7).txN.toNat - (sendingInfo 7).txIdx.toNat ∧ (sendingInfo 7).busy = true ∧
      (sendingInfo 7).op.isEncode = true :=
  ⟨inv_offering (witness_inv_sendingInfo 0 (.inl rfl)) [] _, by decide, by decide,
    inv_offering (witness_inv_sendingInfo 7 (.inr rfl)) [] _, by decide, by decide, by decide⟩

/-- T2's operands: a sender, and a receiver that holds an older frame. -/
theorem witness_DriveRoundTrip :
    (∃ s : State, s.Inv ∧ s.busy = false ∧ s.arg0 = 0xFF9C ∧ s.arg1 = 0x0001 ∧
        s.schedule = .host (encode .encDrive) :: (List.replicate 10 (.txe ⟨true, false⟩) ++ [])) ∧
      ∃ r : State, r.Inv ∧ r.busy = false ∧
        r.rxStream = [0xAA#8, 0x55#8, 0x06#8, 0x01#8, 0x04#8, 0x9C#8, 0xFF#8, 0x01#8, 0x00#8, 0x61#8].map RxEvent.byte ++
          [.err] ∧
        r.schedule = .host (encode .recv) :: (List.replicate 10 .rxe ++ [.rst]) := by
  refine ⟨⟨{ start with
      arg0 := 0xFF9C
      arg1 := 0x0001
      schedule := .host (encode .encDrive) :: (List.replicate 10 (.txe ⟨true, false⟩) ++ []) }, ?_, rfl, rfl, rfl, rfl⟩,
    ⟨_, inv_offering witness_inv_holding _ _, rfl, rfl, rfl⟩⟩
  have h := witness_inv_start
  cases h
  constructor <;> assumption

/-- An idle machine that holds an older frame, and each answer of recv: RV2, RV19, RV8, RV10 and RV13, with fail_cnt at 0, at 1
and at FAIL_CAP - 1. -/
theorem witness_RecvFunctionAgrees :
    (∃ r : State, r.Inv ∧ r.busy = false ∧ r.rxValid = true ∧ Memory.read r.rxBuf 8 = some 0x26#8 ∧
        r.rxStream = [0xAA#8, 0x55#8, 0x00#8, 0x00#8].map RxEvent.byte ++ [.err] ∧
        r.schedule = .host (encode .recv) :: (List.replicate 4 .rxe ++ [.rst]) ∧ r.params = params ∧ r.failCnt = 0) ∧
      recv params 0 ([0xAA#8, 0x55#8, 0x00#8, 0x00#8].map RxEvent.byte ++ [.err]) =
        .done .ok 4 (some [0x00#8, 0x00#8]) 0 ∧
      (∃ u, recv params 0 ([0xAA#8, 0x55#8, 0x01#8, 0x07#8].map RxEvent.byte) = .pending u) ∧
      (∃ u, recv params 0 [] = .pending u ∧ Memory.read u.rxBuf 0 = none) ∧
      recv params 2 ([0xAA#8, 0x55#8, 0x01#8, 0x07#8, 0x00#8].map RxEvent.byte) = .done .cksumCap 5 none 3 ∧
      recv params 1 ([0xAA#8, 0x55#8, 0x03#8, 0x01#8].map RxEvent.byte ++ [.err]) = .done .rxIo 5 none 1 ∧
      recv { params with bufCap := 140 } 0 ([0xAA#8, 0x55#8, 0x8B#8].map RxEvent.byte) = .done .overrun 3 none 0 :=
  ⟨⟨_, inv_offering witness_inv_holding _ _, rfl, rfl, by decide, rfl, rfl, rfl, rfl⟩, by decide, ⟨_, rfl⟩, ⟨_, rfl, by decide⟩,
    by decide, by decide, by decide⟩

/-- A receive, an encode and a reset that end, and dispatches that end and that do not. -/
theorem witness_OperationEnds :
    viewNext (step (offered .err (awaiting .recv))) (fun t => t.busy) = some false ∧
      viewNext (step (State.withSchedule [.txe ⟨true, false⟩] (sendingInfo 7))) (fun t => t.busy) = some false ∧
      viewNext (step (State.withSchedule [.rst] (sendingInfo 7))) (fun t => t.busy) = some false ∧
      (awaiting .recv).busy = true ∧ (sendingInfo 7).busy = true ∧ start.busy = false ∧
      viewNext (exec .decode start) (fun t => t.busy) = some false ∧
      viewNext (exec (.illegalAB 0xA#4) start) (fun t => t.busy) = some false ∧
      viewNext (exec .recv start) (fun t => t.busy) = some true := by decide

/-- The sender of one ENC_REQINFO whose every byte is accepted, with a turn left over when the run ends. -/
def sendsInfo : State :=
  State.withSchedule (.host (encode .encReqinfo) :: (List.replicate 8 (.txe ⟨true, false⟩) ++ [.rst])) start

set_option maxRecDepth 2000 in
/-- 43_host_interface.md R189: a run that ends while the reset turn is left, one that ends at once, one whose receive never
ends, one that faults before its first end, and a HOST turn that is no access. -/
theorem witness_RunEnds :
    (match hostRun sendsInfo with
      | .ended e => (e.code, e.busy, e.wire)
      | .running _ => (.illegalOp, true, [])
      | .stopped _ => (.illegalOp, true, [])
      | .refused _ => (.illegalOp, true, [])) = (.ok, false, frame reqinfoPayload) ∧
      hostRun start = .ended start.endState ∧ start.runEnded = true ∧
      hostRun (command start 0x2) = .running (awaiting .recv) ∧
      hostRun (reading 0x080 start) = .stopped .rxBufUnspecified ∧ (reading 0x080 start).runEnded = false ∧
      (State.withSchedule [.host ⟨false, true, 0x000, 2⟩] start).runEnded = true ∧
      holding.endState ≠ start.endState := by decide

end Sys2Proof.Tests
end

section
/-! The checksum as a fold: what `cks` is of no bytes, of all bytes from either end, and of a concatenation (spec
00_scope.md R10, R12). -/

namespace Sys2Proof.Machine

@[simp] theorem cks_nil : cks [] = 0x00#8 := rfl

/-- The recursion of `cks` combines the bytes from the right. -/
theorem cks_eq_foldr (bs : List Byte) : cks bs = bs.foldr (· ^^^ ·) 0x00#8 := by
  induction bs with
  | nil => rfl
  | cons b bs ih => rw [cks_cons, ih, List.foldr_cons]

/-- Exclusive or is commutative and associative, so the order of R10, from the left, gives the same byte. -/
theorem cks_eq_foldl (bs : List Byte) : cks bs = bs.foldl (· ^^^ ·) 0x00#8 := by
  rw [cks_eq_foldr, List.foldl_eq_foldr]

theorem cks_append (as bs : List Byte) : cks (as ++ bs) = cks as ^^^ cks bs := by
  induction as with
  | nil => rw [List.nil_append, cks_nil, BitVec.zero_xor]
  | cons a as ih => rw [List.cons_append, cks_cons, cks_cons, ih, BitVec.xor_assoc]

/-- Settles O17: the fold from the left agrees with the recursion of `cks`, which splits over a concatenation. -/
theorem checksumIsXor : Obligations.ChecksumIsXor :=
  ⟨cks_nil, cks_eq_foldl, cks_append⟩

end Sys2Proof.Machine
end

section
/-! What a step is, turn by turn, where the agent's access decodes or the environment offers (spec 10_state.md R21, R39,
R40), and the turns of agents that have no enabled step. -/

namespace Sys2Proof.Machine

variable {s : State} {ts : List Turn}

theorem step_nil (h : s.schedule = []) : step s = .next s := by
  simp [step, h]

theorem step_host_instr {p : HostPins} {i : Instr} (h : s.schedule = .host p :: ts) (hd : decodeAccess p = .ok i) :
    step s = exec i (State.withSchedule ts s) := by
  simp [step, h, hd]

theorem step_env {p : RxPins} (h : s.schedule = .env p :: ts) :
    step s = .next (envOffer p (State.withSchedule ts s)) := by
  simp [step, h]

theorem rxReady_iff : rxReady s = true ↔ s.busy = true ∧ s.op.isReceive = true := Bool.and_eq_true_iff

theorem txValid_iff : txValid s = true ↔ s.busy = true ∧ s.op.isEncode = true := Bool.and_eq_true_iff

theorem rxeTurn_disabled (h : ¬ (s.busy = true ∧ s.op.isReceive = true)) : rxeTurn s = .next s :=
  if_neg (mt rxReady_iff.mp h)

theorem rxeTurn_no_event (h : s.rxStream = []) : rxeTurn s = .next s := by
  simp [rxeTurn, h]

/-- An enabled turn of the RXE is a step on the oldest event. -/
theorem rxeTurn_taking {e : RxEvent} {es : List RxEvent} (h : State.taking s ts e es) :
    rxeTurn (State.withSchedule ts s) = outcomeOf (rxeStep e (State.taken s ts e es)) := by
  obtain ⟨-, hb, ho, hs⟩ := h
  have hr : rxReady (State.withSchedule ts s) = true := rxReady_iff.mpr ⟨hb, ho⟩
  rw [rxeTurn, if_pos hr]
  simp only [withSchedule_rxStream, hs]
  rfl

/-- The converse: a turn of the RXE that answers is skipped, or such a step. -/
theorem rxeTurn_taking_cases {t : State} (hs : s.schedule = .rxe :: ts)
    (h : rxeTurn (State.withSchedule ts s) = .next t) :
    t = State.withSchedule ts s ∨
      ∃ e es, State.taking s ts e es ∧ rxeStep e (State.taken s ts e es) = .ok t := by
  rcases rxeTurn_cases h with ⟨-, rfl⟩ | ⟨hr, e, es, he, h⟩
  · exact .inl rfl
  · obtain ⟨hb, ho⟩ := rxReady_iff.mp hr
    exact .inr ⟨e, es, ⟨hs, hb, ho, he⟩, h⟩

theorem txeTurn_disabled {p : TxPins} (h : ¬ (s.busy = true ∧ s.op.isEncode = true)) : txeTurn p s = .next s :=
  if_neg (mt txValid_iff.mp h)

theorem txeTurn_no_answer {p : TxPins} (hr : p.txReady = false) (he : p.txErr = false) : txeTurn p s = .next s := by
  simp [txeTurn, txeStep, hr, he, outcomeOf]

theorem decodeAccess_no_request {p : HostPins} (h : p.hReq = false) : decodeAccess p = .error .noAccess := if_pos h

theorem hostAccess_no_request {p : HostPins} (h : p.hReq = false) : hostAccess p s = .next s := if_pos h

/-- Settles O5: it is the decoded arm of `step`. -/
theorem stepRunsDecodedInstruction : Obligations.StepRunsDecodedInstruction :=
  fun _ _ _ _ hs hd => step_host_instr hs hd

/-- Settles O6: each disabled turn, by the agent whose turn it is. -/
theorem disabledTurnsChangeNothing : Obligations.DisabledTurnsChangeNothing := by
  intro s ts
  refine ⟨step_nil, fun hs hoff => ?_, fun p hs hoff => ?_, fun p hs hq => ?_⟩
  · rw [step_rxe hs]
    exact hoff.elim (fun h => rxeTurn_disabled h) (fun h => rxeTurn_no_event h)
  · rw [step_txe hs]
    exact hoff.elim (fun h => txeTurn_disabled h) fun ⟨hr, he⟩ => txeTurn_no_answer hr he
  · rw [step_host_register hs (decodeAccess_no_request hq)]
    exact hostAccess_no_request hq

/-- Settles O27: the event of the pins in its three cases, put behind what was offered before. -/
theorem environmentOffers : Obligations.EnvironmentOffers := by
  intro s p ts hs
  rw [step_env hs]
  refine ⟨fun he => ?_, fun he hv => ?_, fun he hv => ?_⟩
  · simp [envOffer, RxPins.event, he, State.withSchedule]
  · simp [envOffer, RxPins.event, he, hv, State.withSchedule]
  · simp [envOffer, RxPins.event, he, hv, State.withSchedule]

end Sys2Proof.Machine
end

section
/-! What each kind of turn leaves alone: the frames of the dispatch, the register port and the engines. -/

namespace Sys2Proof.Machine

variable {s t : State}

theorem sameReceive_refl (s : State) : State.sameReceive s s := ⟨rfl, rfl, rfl, rfl, rfl, rfl, rfl, rfl, rfl, rfl⟩

theorem sameTransmit_refl (s : State) : State.sameTransmit s s := ⟨rfl, rfl, rfl⟩

/-- The dispatch of an operation touches neither fail_cnt nor what lies outside KSPC. -/
theorem exec_frame {i : Instr} (h : exec i s = .next t) : t.failCnt = s.failCnt ∧ State.sameOutside s t := by
  rcases exec_cases h with ⟨-, rfl⟩ | ⟨-, ⟨-, rfl⟩ | ⟨-, rfl⟩ | ⟨-, hd⟩ | ⟨o, P, -, rfl⟩ | ⟨-, rfl⟩⟩
  case inr.inr.inr.inl =>
    rcases decodeCommand_cases hd with ⟨-, rfl⟩ | ⟨-, P, -, ⟨-, rfl⟩ | ⟨-, rfl⟩⟩ <;>
      exact ⟨rfl, rfl, rfl, rfl, rfl, rfl, rfl⟩
  all_goals exact ⟨rfl, rfl, rfl, rfl, rfl, rfl, rfl⟩

/-- A register access touches neither engine. -/
theorem hostAccess_frame {p : HostPins} (h : hostAccess p s = .next t) :
    State.sameReceive s t ∧ State.sameTransmit s t ∧ t.wire = s.wire := by
  rcases hostAccess_cases h with ⟨-, rfl⟩ | ⟨-, -, rfl⟩ | ⟨-, -, w, -, rfl⟩
  · exact ⟨sameReceive_refl _, sameTransmit_refl _, rfl⟩
  · rcases hostWrite_cases p.hWidx p.hWdata s with hw | ⟨a, hw⟩ | ⟨a, hw⟩ | ⟨a, hw⟩ | ⟨a, hw⟩ | ⟨a, hw⟩ | ⟨j, -, hw⟩ <;>
      rw [hw] <;> exact ⟨sameReceive_refl _, sameTransmit_refl _, rfl⟩
  · exact ⟨sameReceive_refl _, sameTransmit_refl _, rfl⟩

/-- A step of the RXE sends nothing. -/
theorem rxeStep_wire {e : RxEvent} (h : rxeStep e s = .ok t) : t.wire = s.wire := by
  rcases rxeStep_cases h with ⟨-, rfl⟩ | ⟨b, -, ⟨-, rfl⟩ | ⟨-, -, rfl⟩ | ⟨-, -, rfl⟩ | ⟨-, -, rfl⟩ |
    ⟨-, -, bytes, -, ⟨-, hm⟩ | ⟨-, rfl⟩⟩⟩
  · rfl
  · unfold rxAwaitHeader; split <;> rfl
  · rfl
  · rfl
  · rfl
  · rcases rxMatch_cases hm with ⟨-, rfl⟩ | ⟨-, P, -, ⟨-, rfl⟩ | ⟨-, rfl⟩⟩ <;> rfl
  · unfold rxMismatch; split <;> rfl

/-- A turn of the TXE does not touch fail_cnt. -/
theorem txeTurn_failCnt {p : TxPins} (h : txeTurn p s = .next t) : t.failCnt = s.failCnt := by
  rcases txeTurn_cases h with ⟨-, rfl⟩ | ⟨-, h⟩
  · rfl
  · rcases txeStep_cases h with ⟨-, rfl⟩ | ⟨-, -, rfl⟩ | ⟨-, -, b, -, ⟨-, rfl⟩ | ⟨-, rfl⟩⟩ <;> rfl

/-- Settles O51: only an accepted step of an enabled TXE puts a byte on the wire. -/
theorem transmitOrder : Obligations.TransmitOrder := by
  intro s t h
  rcases step_cases h with ⟨-, rfl⟩ | ⟨ts, ⟨p, i, -, -, h⟩ | ⟨p, r, -, -, h⟩ | ⟨p, -, rfl⟩ | ⟨hs, h⟩ |
    ⟨p, hs, h⟩ | ⟨-, rfl⟩⟩
  · exact .inl rfl
  · obtain ⟨-, -, -, -, hw, -, -⟩ := exec_frame h
    exact .inl hw
  · obtain ⟨-, -, hw⟩ := hostAccess_frame h
    exact .inl hw
  · exact .inl rfl
  · rcases rxeTurn_taking_cases hs h with rfl | ⟨e, es, -, h⟩
    · exact .inl rfl
    · have hw := rxeStep_wire h
      exact .inl hw
  · rcases txeTurn_cases h with ⟨-, rfl⟩ | ⟨hv, h⟩
    · exact .inl rfl
    · obtain ⟨hb, ho⟩ := txValid_iff.mp hv
      rcases txeStep_cases h with ⟨-, rfl⟩ | ⟨-, -, rfl⟩ | ⟨he, hr, b, hread, ⟨-, rfl⟩ | ⟨-, rfl⟩⟩
      · exact .inl rfl
      · exact .inl rfl
      · exact .inr ⟨p, ts, b, hs, he, hr, hb, ho, hread, rfl, rfl⟩
      · exact .inr ⟨p, ts, b, hs, he, hr, hb, ho, hread, rfl, rfl⟩
  · exact .inl rfl

end Sys2Proof.Machine
end

section
/-! The receive engine at the end of a frame, and the transmit engine at the byte it offers: what the invariant says of
the buffers there (spec 40_receiver.md R105, 41_encoder.md R131). -/

namespace Sys2Proof.Machine

variable {s : State}

theorem OpCode.isEncode_eq_false_of_isReceive {o : OpCode} (h : o.isReceive = true) : o.isEncode = false := by
  cases o <;> simp_all [OpCode.isReceive, OpCode.isEncode]

theorem OpCode.isReceive_eq_false_of_isEncode {o : OpCode} (h : o.isEncode = true) : o.isReceive = false := by
  cases o <;> simp_all [OpCode.isReceive, OpCode.isEncode]

/-- A counter below its greatest value does not wrap. -/
theorem Count.toNat_succ {c : Count} (h : c.toNat < 511) : (c + 1).toNat = c.toNat + 1 := by
  have h1 : (1 : Count).toNat = 1 := rfl
  rw [BitVec.toNat_add, h1]
  omega

/-- With BUSY = 0 the receiver is IDLE. -/
theorem State.Inv.rxState_of_idle (h : s.Inv) (hb : s.busy = false) : s.rxState = .idle := by
  by_contra hs
  rw [(h.receiving.mp hs).1] at hb
  cases hb

/-- While rx_state is not IDLE no frame is valid. -/
theorem State.Inv.rxValid_of_receiving (h : s.Inv) (hs : s.rxState ≠ .idle) : s.rxValid = false := by
  by_contra hv
  exact hs (h.validNotReceiving (by simpa using hv))

/-- A byte stored at rx_idx leaves the bytes taken before it. -/
theorem Memory.read_write_below {m : Memory} {a i : Nat} (b : Byte) (h : i < a) :
    Memory.read (Memory.write m a b) i = Memory.read m i :=
  Memory.read_write_other m b (Nat.ne_of_lt h)

/-- In READ_CHECKSUM the payload stands in rx_buf, and the checksum covers it and the length byte, whatever byte is stored
behind them (40_receiver.md R105). -/
theorem State.Inv.payload_at_checksum (h : s.Inv) (hs : s.rxState = .readChecksum) (b : Byte) :
    ∃ P, Memory.readList s.rxBuf 1 s.rxLen.toNat = some P ∧
      Memory.readList (Memory.write s.rxBuf s.rxIdx.toNat b) 1 s.rxLen.toNat = some P ∧
      Memory.readList (Memory.write s.rxBuf s.rxIdx.toNat b) 0 (s.rxLen.toNat + 1) = some (s.rxLen :: P) := by
  have hi := h.idxAtChecksum hs
  obtain ⟨-, h0, hall⟩ := h.frameSoFar (.inr hs)
  obtain ⟨P, hP⟩ : ∃ P, Memory.readList s.rxBuf 1 s.rxLen.toNat = some P :=
    Memory.readList_isSome fun i hlt => Option.isSome_iff_exists.mp (hall (1 + i) (by omega))
  have hP' : Memory.readList (Memory.write s.rxBuf s.rxIdx.toNat b) 1 s.rxLen.toNat = some P := by
    rw [← hP]
    exact Memory.readList_congr fun i _ hlt => Memory.read_write_below b (by omega)
  have h0' : Memory.read (Memory.write s.rxBuf s.rxIdx.toNat b) 0 = some s.rxLen := by
    rw [Memory.read_write_below b (by omega), h0]
  exact ⟨P, hP, hP', by simp only [Memory.readList, h0', Nat.zero_add, hP']⟩

/-- One byte of a buffer read as a whole. -/
theorem Memory.read_of_readList {m : Memory} {n i : Nat} {bs : List Byte} (h : Memory.readList m 0 n = some bs)
    (hi : i < bs.length) : Memory.read m i = some bs[i] := by
  have hb := ((Memory.readList_eq_some _ _ _ _).mp h).2 i hi
  rwa [Nat.zero_add] at hb

/-- The frame of a running encode is in txf, so the byte offered has been written. -/
theorem State.Inv.txByte_isSome (h : s.Inv) (hb : s.busy = true) (ho : s.op.isEncode = true) :
    ∃ b, txByte s = some b := by
  obtain ⟨P, before, -, hn, hlt, hf, -⟩ := h.sending hb ho
  exact ⟨_, Memory.read_of_readList hf (by rw [frame_length]; omega)⟩

end Sys2Proof.Machine
end

section
/-! The part of the invariant that no operation needs to run (the ranges, the buffers, the held frame), and the shapes a
state that meets it may take: at rest, before a frame, within one. Every step of the machine ends in one of them. -/

namespace Sys2Proof.Machine

variable {s : State}

/-- `rx_buf` holds a whole frame whose checksum matches (10_state.md R28). -/
def State.holdsFrame (s : State) : Prop := ∃ (L : Byte) (P : List Byte),
  L.toNat + 2 ≤ s.params.bufCap ∧ Memory.read s.rxBuf 0 = some L ∧ Memory.readList s.rxBuf 1 L.toNat = some P ∧
    Memory.read s.rxBuf (L.toNat + 1) = some (cks (L :: P))

/-- A held frame has a payload for the Sensor Codec to read (42_sensor_codec.md R163). -/
theorem State.holdsFrame.framePayload (h : s.holdsFrame) : ∃ P, Machine.framePayload s = some P := by
  obtain ⟨L, P, -, h0, hP, -⟩ := h
  exact ⟨P, framePayload_eq_some.mpr ⟨L, h0, hP⟩⟩

/-- What holds of the parameters, the buffers and the counters whether or not an operation runs. -/
structure State.Stores (s : State) : Prop where
  params : s.params.wf
  rxBufWf : Memory.wf s.rxBuf
  txpayWf : Memory.wf s.txpay
  txfWf : Memory.wf s.txf
  rxBufBound : ∀ c ∈ s.rxBuf, c.1 < s.params.bufCap
  txpayBound : ∀ c ∈ s.txpay, c.1 < 256
  txfBound : ∀ c ∈ s.txf, c.1 < 259
  failCntRange : s.failCnt.toNat ≤ s.params.failCap
  rxIdxRange : s.rxIdx.toNat ≤ 257
  rxSizeRange : s.rxSize.toNat ≤ 255 + s.params.rxSizeBias
  validFrame : s.rxValid = true → s.holdsFrame
  txRange : s.txIdx.toNat ≤ s.txN.toNat ∧ s.txN.toNat ≤ 259

theorem State.Inv.stores (h : s.Inv) : s.Stores := { h with }

theorem State.Inv.holdsFrame (h : s.Inv) (hv : s.rxValid = true) : s.holdsFrame := h.validFrame hv

/-- The machine at rest. -/
theorem State.Stores.inv_idle (h : s.Stores) (hs : s.rxState = .idle) (hb : s.busy = false) : s.Inv :=
  { h with
    receiving := by simp [hs, hb]
    busyOp := by simp [hb]
    idxBeforeLength := by simp [hs]
    idxInPayload := by simp [hs]
    idxAtChecksum := by simp [hs]
    frameSoFar := by simp [hs]
    windowClosed := by simp [hs]
    windowOpen := by simp [hs]
    validNotReceiving := fun _ => hs
    sending := by simp [hb] }

/-- A receive that runs. -/
structure State.Receives (s : State) : Prop where
  busy : s.busy = true
  op : s.op.isReceive = true
  rxValid : s.rxValid = false

/-- A receive that has not yet taken a length byte. -/
theorem State.Stores.inv_beforeFrame (h : s.Stores) (hr : s.Receives) (hi : s.rxIdx = 0)
    (hs : (s.rxState = .awaitHeader ∧ (s.hdrAa = true → s.rxTaken.getLast? = some (.byte 0xAA#8))) ∨
      (s.rxState = .readLength ∧ s.hdrAa = false)) : s.Inv := by
  obtain ⟨hb, ho, hv⟩ := hr
  have he := OpCode.isEncode_eq_false_of_isReceive ho
  rcases hs with ⟨hs, hw⟩ | ⟨hs, hw⟩ <;>
  exact { h with
    receiving := by simp [hs, hb, ho]
    busyOp := by simp [ho]
    idxBeforeLength := fun _ => hi
    idxInPayload := by simp [hs]
    idxAtChecksum := by simp [hs]
    frameSoFar := by simp [hs]
    windowClosed := by simp [hs, hw]
    windowOpen := by simp_all
    validNotReceiving := by simp [hv]
    sending := by simp [he] }

/-- A receive that has taken a length byte, and `rx_idx` bytes of the frame. -/
theorem State.Stores.inv_inFrame (h : s.Stores) (hr : s.Receives) (hw : s.hdrAa = false)
    (hs : (s.rxState = .readPayload ∧ 1 ≤ s.rxIdx.toNat ∧ s.rxIdx.toNat ≤ s.rxLen.toNat) ∨
      (s.rxState = .readChecksum ∧ s.rxIdx.toNat = s.rxLen.toNat + 1))
    (hf : s.rxLen.toNat + 2 ≤ s.params.bufCap ∧ Memory.read s.rxBuf 0 = some s.rxLen ∧
      ∀ i, i < s.rxIdx.toNat → (Memory.read s.rxBuf i).isSome = true) : s.Inv := by
  obtain ⟨hb, ho, hv⟩ := hr
  have he := OpCode.isEncode_eq_false_of_isReceive ho
  rcases hs with ⟨hs, hi⟩ | ⟨hs, hi⟩ <;>
  exact { h with
    receiving := by simp [hs, hb, ho]
    busyOp := by simp [ho]
    idxBeforeLength := by simp [hs]
    idxInPayload := by simp [hs, hi]
    idxAtChecksum := by simp [hs, hi]
    frameSoFar := fun _ => hf
    windowClosed := fun _ => hw
    windowOpen := by simp [hs]
    validNotReceiving := by simp [hv]
    sending := by simp [he] }

/-- While a receive runs a byte may be stored anywhere in `rx_buf`. -/
theorem State.Stores.store (h : s.Stores) (hv : s.rxValid = false) {i : Nat} (b : Byte) (hi : i < s.params.bufCap) :
    ({ s with rxBuf := Memory.write s.rxBuf i b } : State).Stores :=
  { h with
    rxBufWf := Memory.write_wf i b h.rxBufWf
    rxBufBound := Memory.write_below b h.rxBufBound hi
    validFrame := by simp [hv] }

/-- An operation may end wherever these hold. -/
theorem State.Stores.finish (h : s.Stores) (c : ResultCode) : (Machine.finish c s).Inv :=
  State.Stores.inv_idle { h with } rfl rfl

end Sys2Proof.Machine
end

section
/-! The invariant at reset, at the dispatch of an operation and at a host access. -/

namespace Sys2Proof.Machine

variable {s t : State}

theorem resetStep_inv (hp : s.params.wf) : (resetStep s).Inv :=
  State.Stores.inv_idle (hs := rfl) (hb := rfl)
    { params := hp
      rxBufWf := Memory.nil_wf
      txpayWf := Memory.nil_wf
      txfWf := Memory.nil_wf
      rxBufBound := by simp
      txpayBound := by simp
      txfBound := by simp
      failCntRange := by simp
      rxIdxRange := by simp
      rxSizeRange := by simp
      validFrame := by simp
      txRange := by simp }

/-- The schedule is free in the invariant. -/
theorem State.Inv.withSchedule (h : s.Inv) (ts : List Turn) : (State.withSchedule ts s).Inv := { h with }

/-- Events offered and not yet consumed are free in the invariant. -/
theorem envOffer_inv (p : RxPins) (h : s.Inv) : (envOffer p s).Inv := { h with }

theorem startReceive_inv {o : OpCode} (h : s.Inv) (ho : o.isReceive = true) : (startReceive o s).Inv :=
  State.Stores.inv_beforeFrame (hr := ⟨rfl, ho, rfl⟩) (hi := rfl) (hs := .inl ⟨rfl, by simp⟩)
    { h with
      rxIdxRange := by simp
      validFrame := by simp }

/-- An encode composes its whole frame, of which nothing is sent yet (41_encoder.md R130). -/
theorem startTransmit_inv {o : OpCode} {P : List Byte} (h : s.Inv) (hb : s.busy = false) (ho : o.isEncode = true)
    (hP : P.length ≤ 255) : (startTransmit o P s).Inv := by
  have hs := h.rxState_of_idle hb
  have hr := OpCode.isReceive_eq_false_of_isEncode ho
  have hn : (startTransmit o P s).txN.toNat = P.length + 4 := by
    rw [startTransmit_txN, BitVec.toNat_ofNat]
    omega
  have hlen := frame_length P
  exact { h with
    txfWf := Memory.writeList_wf _ 0 h.txfWf
    txfBound := Memory.writeList_below _ h.txfBound (by omega)
    receiving := by simp [hs, hr]
    busyOp := fun _ => .inr ho
    txRange := ⟨Nat.zero_le _, by omega⟩
    sending := fun _ _ => ⟨P, s.wire, hP, hn, by rw [hn]; simp, startTransmit_frame o P s, by simp⟩ }

theorem decodeCommand_inv (h : s.Inv) (hb : s.busy = false) (hd : decodeCommand s = .ok t) : t.Inv := by
  have hs := h.rxState_of_idle hb
  rcases decodeCommand_cases hd with ⟨-, rfl⟩ | ⟨-, P, -, ⟨-, rfl⟩ | ⟨-, rfl⟩⟩ <;>
    exact State.Stores.inv_idle { h.stores with } hs hb

theorem illegalOperation_inv (h : s.Inv) : (illegalOperation s).Inv := { h with }

theorem exec_inv {i : Instr} (h : s.Inv) (he : exec i s = .next t) : t.Inv := by
  rcases exec_cases he with ⟨-, rfl⟩ | ⟨hb, ⟨-, rfl⟩ | ⟨-, rfl⟩ | ⟨-, hd⟩ | ⟨o, P, hE, rfl⟩ | ⟨-, rfl⟩⟩
  · exact h
  · exact startReceive_inv h rfl
  · exact startReceive_inv h rfl
  · exact decodeCommand_inv h hb hd
  · exact startTransmit_inv h hb hE.isEncode hE.payload_length
  · exact illegalOperation_inv h

theorem writeTxpayWord_inv {j : Nat} (w : Word) (h : s.Inv) (hj : j < 64) : (writeTxpayWord j w s).Inv :=
  { h with
    txpayWf := Memory.writeList_wf _ _ h.txpayWf
    txpayBound := Memory.writeList_below _ h.txpayBound (by simp [le32]; omega) }

theorem hostWrite_inv (i : BitVec 10) (w : Word) (h : s.Inv) : (hostWrite i w s).Inv := by
  rcases hostWrite_cases i w s with e | ⟨a, e⟩ | ⟨a, e⟩ | ⟨a, e⟩ | ⟨a, e⟩ | ⟨a, e⟩ | ⟨j, hj, e⟩ <;> rw [e]
  case inr.inr.inr.inr.inr.inr => exact writeTxpayWord_inv w h hj
  all_goals exact { h with }

theorem hostAccess_inv {p : HostPins} (h : s.Inv) (ha : hostAccess p s = .next t) : t.Inv := by
  rcases hostAccess_cases ha with ⟨-, rfl⟩ | ⟨-, -, rfl⟩ | ⟨-, -, w, -, rfl⟩
  · exact h
  · exact hostWrite_inv _ _ h
  · exact { h with }

end Sys2Proof.Machine
end

section
/-! The invariant at a step of an engine: one lemma per branch of the receive engine (spec 40_receiver.md R102-R110), then
the transmit engine (41_encoder.md R131, R133). -/

namespace Sys2Proof.Machine

variable {s t : State} {ts : List Turn} {e : RxEvent} {es : List RxEvent}

/-! ### The receive engine -/

theorem State.Inv.receives (h : s.Inv) (ht : State.taking s ts e es) : s.Receives := by
  obtain ⟨-, hb, ho, -⟩ := ht
  exact ⟨hb, ho, h.rxValid_of_receiving (h.receiving.mpr ⟨hb, ho⟩)⟩

theorem State.Inv.stores_taken (h : s.Inv) : (State.taken s ts e es).Stores := { h with }

theorem rxAwaitHeader_inv {b : Byte} (h : s.Inv) (hr : s.Receives) (hs : s.rxState = .awaitHeader) :
    (rxAwaitHeader b (State.taken s ts (.byte b) es)).Inv := by
  have hi := h.idxBeforeLength (.inl hs)
  unfold rxAwaitHeader
  split
  · exact State.Stores.inv_beforeFrame { h.stores with } { hr with } hi (.inr ⟨rfl, rfl⟩)
  · refine State.Stores.inv_beforeFrame { h.stores with } { hr with } hi (.inl ⟨hs, fun hw => ?_⟩)
    simp [State.taken, of_decide_eq_true hw]

/-- READ_LENGTH where the frame fits: the length byte is the frame's first (40_receiver.md R103). -/
theorem rxTakeLength_inv {b : Byte} (h : s.Inv) (hr : s.Receives) (hs : s.rxState = .readLength)
    (hb : b.toNat + 2 ≤ s.params.bufCap) :
    ({ State.taken s ts (.byte b) es with
      rxLen := b
      rxBuf := Memory.write s.rxBuf 0 b
      rxIdx := 1
      rxState := if b = 0x00#8 then .readChecksum else .readPayload } : State).Inv := by
  have hst := h.stores.store hr.rxValid b (i := 0) (by omega)
  refine State.Stores.inv_inFrame { hst with rxIdxRange := by simp } { hr with } (h.windowClosed (.inl hs)) ?_
    ⟨hb, Memory.read_write_same _ _ _, fun i hi => ?_⟩
  · by_cases h0 : b = 0x00#8
    · exact .inr ⟨if_pos h0, by simp [h0]⟩
    · have hpos : b.toNat ≠ 0 := fun hz => h0 (BitVec.eq_of_toNat_eq hz)
      exact .inl ⟨if_neg h0, by simp, by simp; omega⟩
  · obtain rfl : i = 0 := by simpa using hi
    simp

theorem rxReadPayload_inv {b : Byte} (h : s.Inv) (hr : s.Receives) (hs : s.rxState = .readPayload)
    (hlt : s.rxIdx.toNat < s.params.bufCap) :
    ({ State.taken s ts (.byte b) es with
      rxBuf := Memory.write s.rxBuf s.rxIdx.toNat b
      rxIdx := s.rxIdx + 1
      rxState := if s.rxIdx + 1 = s.rxLen.setWidth 9 + 1 then .readChecksum else .readPayload } : State).Inv := by
  obtain ⟨h1, h2⟩ := h.idxInPayload hs
  obtain ⟨hcap, h0, hall⟩ := h.frameSoFar (.inl hs)
  have hlen := s.rxLen.isLt
  have hidx := Count.toNat_succ (c := s.rxIdx) (by omega)
  have hlast : s.rxIdx + 1 = s.rxLen.setWidth 9 + 1 ↔ s.rxIdx.toNat = s.rxLen.toNat := by
    rw [add_left_inj, ← BitVec.toNat_inj, BitVec.toNat_setWidth]
    omega
  have hfirst : Memory.read (Memory.write s.rxBuf s.rxIdx.toNat b) 0 = some s.rxLen := by
    rw [Memory.read_write_below b h1, h0]
  have hbytes : ∀ i, i < (s.rxIdx + 1).toNat →
      (Memory.read (Memory.write s.rxBuf s.rxIdx.toNat b) i).isSome = true := by
    intro i hi
    rw [Memory.read_write]
    split
    · rfl
    · exact hall i (by omega)
  have hst : ({ s with rxBuf := Memory.write s.rxBuf s.rxIdx.toNat b, rxIdx := s.rxIdx + 1 } : State).Stores :=
    { h.stores.store hr.rxValid b hlt with rxIdxRange := show (s.rxIdx + 1).toNat ≤ 257 by omega }
  refine State.Stores.inv_inFrame { hst with } { hr with } (h.windowClosed (.inr (.inl hs))) ?_ ⟨hcap, hfirst, hbytes⟩
  by_cases he : s.rxIdx.toNat = s.rxLen.toNat
  · exact .inr ⟨if_pos (hlast.mpr he), he ▸ hidx⟩
  · have hpos : 1 ≤ (s.rxIdx + 1).toNat := by omega
    have hle : (s.rxIdx + 1).toNat ≤ s.rxLen.toNat := by omega
    exact .inl ⟨if_neg (mt hlast.mp he), hpos, hle⟩

/-- RXSIZE does not wrap (40_receiver.md R106). -/
theorem rxSize_toNat (b : Byte) {n : Nat} (hn : n = 2 ∨ n = 3) :
    (b.setWidth 9 + BitVec.ofNat 9 n).toNat = b.toNat + n := by
  have hb := b.isLt
  rw [BitVec.toNat_add, BitVec.toNat_setWidth, BitVec.toNat_ofNat]
  omega

/-- A match holds the frame that rx_buf has, and ends the receive (40_receiver.md R106). -/
theorem rxMatch_inv (h : s.Stores) (hf : s.holdsFrame) (hm : rxMatch s = .ok t) : t.Inv := by
  have hlen := s.rxLen.isLt
  have hbias : s.params.rxSizeBias = 2 ∨ s.params.rxSizeBias = 3 := by
    obtain ⟨-, -, -, -, hb⟩ := h.params
    exact hb
  have hw : (rxMatchWrites s).Stores :=
    { h with
      failCntRange := Nat.zero_le _
      rxSizeRange := by rw [rxMatchWrites_rxSize, rxSize_toNat _ hbias]; simp only [rxMatchWrites_params]; omega
      validFrame := fun _ => hf }
  rcases rxMatch_cases hm with ⟨-, rfl⟩ | ⟨-, P, -, ⟨-, rfl⟩ | ⟨-, rfl⟩⟩
  · exact hw.finish .ok
  · refine State.Stores.finish ?_ .ok
    exact { hw with }
  · exact hw.finish .decodeShort

/-- `min(fail_cnt + 1, FAIL_CAP)` fits the byte that holds it. -/
theorem bumpFailCnt_toNat (h : s.params.wf) : (BitVec.ofNat 8 (bumpFailCnt s)).toNat = bumpFailCnt s := by
  obtain ⟨-, hcap, -⟩ := h
  rw [BitVec.toNat_ofNat, bumpFailCnt]
  omega

/-- A mismatch ends the receive at the cap, and starts it over below (40_receiver.md R107, R108). -/
theorem rxMismatch_inv (h : s.Stores) (hr : s.Receives) : (rxMismatch s).Inv := by
  have hc : (BitVec.ofNat 8 (bumpFailCnt s)).toNat ≤ s.params.failCap := by
    rw [bumpFailCnt_toNat h.params]
    exact Nat.min_le_right _ _
  have hu : ({ s with failCnt := BitVec.ofNat 8 (bumpFailCnt s) } : State).Stores := { h with failCntRange := hc }
  unfold rxMismatch
  split
  · exact hu.finish .cksumCap
  · exact State.Stores.inv_beforeFrame { hu with rxIdxRange := by simp } { hr with } rfl (.inl ⟨rfl, by simp⟩)

/-- The byte that ends a frame, stored behind a payload whose checksum it is, completes a frame to hold. -/
theorem State.Inv.holdsFrame_stored {b : Byte} (h : s.Inv) (hs : s.rxState = .readChecksum) {bytes : List Byte}
    (hbytes : Memory.readList (Memory.write s.rxBuf s.rxIdx.toNat b) 0 (s.rxLen.toNat + 1) = some bytes)
    (hc : cks bytes = b) :
    ({ State.taken s ts e es with rxBuf := Memory.write s.rxBuf s.rxIdx.toNat b } : State).holdsFrame := by
  obtain ⟨hcap, h0, -⟩ := h.frameSoFar (.inr hs)
  obtain ⟨P, -, hP, hall⟩ := h.payload_at_checksum hs b
  obtain rfl : s.rxLen :: P = bytes := Option.some.inj (hall.symm.trans hbytes)
  have hi := h.idxAtChecksum hs
  refine ⟨s.rxLen, P, hcap, ?_, hP, ?_⟩
  · exact (Memory.read_write_below b (by omega)).trans h0
  · show Memory.read (Memory.write s.rxBuf s.rxIdx.toNat b) _ = _
    rw [← hi, Memory.read_write_same, hc]

theorem rxeStep_inv (h : s.Inv) (ht : State.taking s ts e es) (hstep : rxeStep e (State.taken s ts e es) = .ok t) :
    t.Inv := by
  have hr := h.receives ht
  rcases rxeStep_cases hstep with ⟨-, rfl⟩ | ⟨b, rfl, ⟨hs, rfl⟩ | ⟨hs, hb, rfl⟩ | ⟨hs, hb, rfl⟩ | ⟨hs, hi, rfl⟩ |
    ⟨hs, hi, bytes, hbytes, hend⟩⟩
  · exact h.stores_taken.finish .rxIo
  · exact rxAwaitHeader_inv h hr hs
  · refine State.Stores.finish ?_ .overrun
    exact { h.stores with }
  · exact rxTakeLength_inv h hr hs hb
  · exact rxReadPayload_inv h hr hs hi
  · have hst : ({ State.taken s ts (.byte b) es with rxBuf := Memory.write s.rxBuf s.rxIdx.toNat b } : State).Stores :=
      h.stores_taken.store hr.rxValid b hi
    rcases hend with ⟨hc, hm⟩ | ⟨-, rfl⟩
    · exact rxMatch_inv hst (h.holdsFrame_stored hs hbytes hc) hm
    · exact rxMismatch_inv hst { hr with }

/-! ### The transmit engine -/

/-- The wire grows by the next byte of the frame (41_encoder.md R131). -/
theorem txeStep_inv {p : TxPins} (h : s.Inv) (hb : s.busy = true) (ho : s.op.isEncode = true)
    (hstep : txeStep p s = .ok t) : t.Inv := by
  obtain ⟨P, before, hP, hn, hlt, hf, hwire⟩ := h.sending hb ho
  have hidx := Count.toNat_succ (c := s.txIdx) (by omega)
  have hrange : (s.txIdx + 1).toNat ≤ s.txN.toNat ∧ s.txN.toNat ≤ 259 := by omega
  have hlen : s.txIdx.toNat < (frame P).length := by rw [frame_length]; omega
  rcases txeStep_cases hstep with ⟨-, rfl⟩ | ⟨-, -, rfl⟩ | ⟨-, -, b, hread, ⟨-, rfl⟩ | ⟨hne, rfl⟩⟩
  · exact h.stores.finish .txIo
  · exact h
  · refine State.Stores.finish ?_ .ok
    exact { h.stores with txRange := hrange }
  · have hnext : (s.txIdx + 1).toNat ≠ s.txN.toNat := fun heq => hne (BitVec.eq_of_toNat_eq heq)
    obtain rfl : (frame P)[s.txIdx.toNat] = b := Option.some.inj ((Memory.read_of_readList hf hlen).symm.trans hread)
    refine { h with txRange := hrange, sending := fun _ _ => ⟨P, before, hP, hn, ?_, hf, ?_⟩ }
    · show (s.txIdx + 1).toNat < s.txN.toNat
      omega
    · show s.wire ++ _ = before ++ (frame P).take (s.txIdx + 1).toNat
      rw [hidx, List.take_succ_eq_append_getElem hlen, ← List.append_assoc, hwire]

/-! ### Every step -/

/-- Settles O45: each kind of turn keeps the invariant, by its own lemma. -/
theorem stepKeepsInvariant : Obligations.StepKeepsInvariant := by
  intro s t h hstep
  rcases step_cases hstep with ⟨-, rfl⟩ | ⟨ts, ⟨p, i, -, -, he⟩ | ⟨p, r, -, -, ha⟩ | ⟨p, -, rfl⟩ | ⟨hs, hx⟩ |
    ⟨p, -, hx⟩ | ⟨-, rfl⟩⟩
  · exact h
  · exact exec_inv (h.withSchedule ts) he
  · exact hostAccess_inv (h.withSchedule ts) ha
  · exact envOffer_inv p (h.withSchedule ts)
  · rcases rxeTurn_taking_cases hs hx with rfl | ⟨e, es, ht, hx⟩
    · exact h.withSchedule ts
    · exact rxeStep_inv h ht hx
  · rcases txeTurn_cases hx with ⟨-, rfl⟩ | ⟨hv, hx⟩
    · exact h.withSchedule ts
    · obtain ⟨hb, ho⟩ := txValid_iff.mp hv
      exact txeStep_inv (h.withSchedule ts) hb ho hx
  · exact resetStep_inv h.params

end Sys2Proof.Machine
end

section
/-! Progress: from a state that meets the invariant each engine has a next state, and so has the host where it asks for
nothing unspecified (spec 93_implementation_defined.md I1). -/

namespace Sys2Proof.Machine

variable {s : State} {ts : List Turn}

/-! ### The host -/

theorem unlessBusy_goes_on {r : Result} (h : s.busy = false → ∃ t, r = .next t) : ∃ t, unlessBusy s r = .next t := by
  cases hb : s.busy with
  | true => exact ⟨s, unlessBusy_busy hb⟩
  | false => rw [unlessBusy_idle hb]; exact h hb

theorem decodeCommand_goes_on (h : s.Inv) : ∃ t, decodeCommand s = .ok t := by
  cases hv : s.rxValid with
  | false => exact ⟨_, decodeCommand_noFrame hv⟩
  | true =>
    obtain ⟨P, hP⟩ := (h.holdsFrame hv).framePayload
    cases hf : layoutFits s.params.layout P.length with
    | true => exact ⟨_, decodeCommand_ok hv hP hf⟩
    | false => exact ⟨_, decodeCommand_short hv hP hf⟩

theorem rawCommand_goes_on (h : ∃ P, rawPayload s = some P) : ∃ t, rawCommand s = .ok t := by
  obtain ⟨P, hP⟩ := h
  exact ⟨startTransmit .encRaw P s, by rw [rawCommand, hP]⟩

/-- A dispatch goes on: of the operations only DECODE and ENC_RAW read a buffer. -/
theorem exec_goes_on {i : Instr} (h : s.Inv) (hraw : i = .encRaw → s.busy = false → ∃ P, rawPayload s = some P) :
    ∃ t, exec i s = .next t := by
  cases i with
  | decode =>
    refine unlessBusy_goes_on fun _ => ?_
    obtain ⟨t, ht⟩ := decodeCommand_goes_on h
    exact ⟨t, outcomeOf_eq_next.mpr ht⟩
  | encRaw =>
    refine unlessBusy_goes_on fun hb => ?_
    obtain ⟨t, ht⟩ := rawCommand_goes_on (hraw rfl hb)
    exact ⟨t, outcomeOf_eq_next.mpr ht⟩
  | _ => exact unlessBusy_goes_on fun _ => ⟨_, rfl⟩

theorem hostAccess_goes_on {p : HostPins} (hread : p.hReq = true → p.hWe = false → ∃ w, view p.hWidx s = .ok w) :
    ∃ t, hostAccess p s = .next t := by
  unfold hostAccess
  split
  · exact ⟨_, rfl⟩
  · rename_i hq
    split
    · exact ⟨_, rfl⟩
    · rename_i hw
      obtain ⟨w, hv⟩ := hread (by simpa using hq) (by simpa using hw)
      exact ⟨{ s with hRdata := w }, by rw [hostRead, hv]; rfl⟩

/-- What the host sees does not depend on the schedule. -/
theorem view_withSchedule (i : BitVec 10) : view i (State.withSchedule ts s) = view i s := by
  unfold view
  cases hostReg i with
  | none => rfl
  | some r => cases r <;> rfl

/-- Only an access reaches an instruction. -/
theorem hReq_of_decodeAccess {p : HostPins} {i : Instr} (h : decodeAccess p = .ok i) : p.hReq = true := by
  by_contra hq
  rw [decodeAccess_no_request (by simpa using hq)] at h
  cases h

/-! ### The engines -/

theorem rxMatch_goes_on (h : ∃ P, framePayload s = some P) : ∃ t, rxMatch s = .ok t := by
  by_cases ho : s.op = .poll
  · obtain ⟨P, hP⟩ := h
    cases hf : layoutFits s.params.layout P.length with
    | true => exact ⟨_, rxMatch_poll_ok ho hP hf⟩
    | false => exact ⟨_, rxMatch_poll_short ho hP hf⟩
  · exact ⟨_, rxMatch_recv ho⟩

/-- The receive engine is never IDLE when it is enabled, stores within `rx_buf`, and reads only what it stored. -/
theorem rxeStep_goes_on {e : RxEvent} {es : List RxEvent} (h : s.Inv) (ht : State.taking s ts e es) :
    ∃ t, rxeStep e (State.taken s ts e es) = .ok t := by
  obtain ⟨-, hb, ho, -⟩ := ht
  cases e with
  | err => exact ⟨_, rfl⟩
  | byte b =>
    have hstep : rxeStep (.byte b) (State.taken s ts (.byte b) es) = rxByteStep b (State.taken s ts (.byte b) es) := rfl
    have hst : (State.taken s ts (.byte b) es).rxState = s.rxState := rfl
    rw [hstep, rxByteStep, hst]
    cases hs : s.rxState with
    | idle => exact absurd hs (h.receiving.mpr ⟨hb, ho⟩)
    | awaitHeader => exact ⟨_, rfl⟩
    | readLength =>
      by_cases hc : s.params.bufCap < b.toNat + 2
      · exact ⟨_, if_pos hc⟩
      · exact ⟨_, rxReadLength_of_le (Nat.le_of_not_lt hc)⟩
    | readPayload =>
      obtain ⟨hcap, -, -⟩ := h.frameSoFar (.inl hs)
      obtain ⟨-, hi⟩ := h.idxInPayload hs
      have hlt : s.rxIdx.toNat < s.params.bufCap := by omega
      exact ⟨_, rxReadPayload_of_lt hlt⟩
    | readChecksum =>
      obtain ⟨hcap, -, -⟩ := h.frameSoFar (.inr hs)
      have hi := h.idxAtChecksum hs
      have hlt : s.rxIdx.toNat < s.params.bufCap := by omega
      obtain ⟨P, -, -, hbytes⟩ := h.payload_at_checksum hs b
      have hsum := rxReadChecksum_of_lt (s := State.taken s ts (.byte b) es) hlt hbytes
      by_cases hc : cks (s.rxLen :: P) = b
      · obtain ⟨t, hm⟩ := rxMatch_goes_on (h.holdsFrame_stored (ts := ts) (es := es) hs hbytes hc).framePayload
        exact ⟨t, by rw [hsum, if_pos hc]; exact hm⟩
      · exact ⟨_, by rw [hsum, if_neg hc]⟩

theorem txeStep_goes_on (p : TxPins) (h : ∃ b, txByte s = some b) : ∃ t, txeStep p s = .ok t := by
  obtain ⟨b, hb⟩ := h
  unfold txeStep txAccept
  rw [hb]
  split
  · exact ⟨_, rfl⟩
  · split
    · dsimp only
      split <;> exact ⟨_, rfl⟩
    · exact ⟨_, rfl⟩

/-! ### Every step -/

/-- Settles O46: each kind of turn goes on, by its own lemma. -/
theorem stepGoesOn : Obligations.StepGoesOn := by
  intro s h hspec
  cases hs : s.schedule with
  | nil => exact ⟨s, step_nil hs⟩
  | cons turn ts =>
    cases turn with
    | host p =>
      cases hd : decodeAccess p with
      | ok i =>
        rw [step_host_instr hs hd]
        refine exec_goes_on (h.withSchedule ts) fun hi hb => ?_
        obtain ⟨-, hraw⟩ := hspec p ts hs (hReq_of_decodeAccess hd)
        exact hraw (hi ▸ hd) hb
      | error r =>
        rw [step_host_register hs hd]
        refine hostAccess_goes_on fun hq hw => ?_
        obtain ⟨hview, -⟩ := hspec p ts hs hq
        rw [view_withSchedule]
        exact hview hw
    | env p => exact ⟨_, step_env hs⟩
    | rxe =>
      rw [step_rxe hs]
      by_cases hr : s.busy = true ∧ s.op.isReceive = true
      · cases he : s.rxStream with
        | nil => exact ⟨_, rxeTurn_no_event he⟩
        | cons e es =>
          have ht : State.taking s ts e es := ⟨hs, hr.1, hr.2, he⟩
          obtain ⟨t, hx⟩ := rxeStep_goes_on h ht
          exact ⟨t, by rw [rxeTurn_taking ht, outcomeOf_eq_next]; exact hx⟩
      · exact ⟨_, rxeTurn_disabled hr⟩
    | txe p =>
      rw [step_txe hs]
      by_cases hv : s.busy = true ∧ s.op.isEncode = true
      · obtain ⟨t, hx⟩ := txeStep_goes_on p ((h.withSchedule ts).txByte_isSome hv.1 hv.2)
        exact ⟨t, (if_pos (txValid_iff.mpr hv)).trans (outcomeOf_eq_next.mpr hx)⟩
      · exact ⟨_, txeTurn_disabled hv⟩
    | rst => exact ⟨_, step_rst hs⟩

end Sys2Proof.Machine
end

section
/-! When fail_cnt changes (spec 10_state.md R27): at reset, and at the byte that ends a frame. -/

namespace Sys2Proof.Machine

variable {s t : State}

theorem rxMatch_failCnt (h : rxMatch s = .ok t) : t.failCnt = 0 := by
  rcases rxMatch_cases h with ⟨-, rfl⟩ | ⟨-, P, -, ⟨-, rfl⟩ | ⟨-, rfl⟩⟩ <;> rfl

/-- A mismatch counts, whether or not it ends the receive. -/
theorem rxMismatch_failCnt (s : State) : (rxMismatch s).failCnt = BitVec.ofNat 8 (bumpFailCnt s) := by
  unfold rxMismatch
  split <;> rfl

/-- A step of the RXE changes fail_cnt only at the byte that ends a frame. -/
theorem rxeStep_failCnt_cases {e : RxEvent} (h : rxeStep e s = .ok t) :
    t.failCnt = s.failCnt ∨
    ∃ b bytes, e = .byte b ∧ s.rxState = .readChecksum ∧
      Memory.readList (Memory.write s.rxBuf s.rxIdx.toNat b) 0 (s.rxLen.toNat + 1) = some bytes ∧
      ((cks bytes = b ∧ t.failCnt = 0) ∨ (cks bytes ≠ b ∧ t.failCnt = BitVec.ofNat 8 (bumpFailCnt s))) := by
  rcases rxeStep_cases h with ⟨-, rfl⟩ | ⟨b, rfl, ⟨-, rfl⟩ | ⟨-, -, rfl⟩ | ⟨-, -, rfl⟩ | ⟨-, -, rfl⟩ |
    ⟨hs, -, bytes, hbytes, hend⟩⟩
  · exact .inl rfl
  · unfold rxAwaitHeader
    split <;> exact .inl rfl
  · exact .inl rfl
  · exact .inl rfl
  · exact .inl rfl
  · refine .inr ⟨b, bytes, rfl, hs, hbytes, ?_⟩
    rcases hend with ⟨hc, hm⟩ | ⟨hc, rfl⟩
    · exact .inl ⟨hc, rxMatch_failCnt hm⟩
    · exact .inr ⟨hc, rxMismatch_failCnt _⟩

/-- Settles O48: every other turn leaves fail_cnt alone, and at a checksum the invariant gives the payload. -/
theorem failCountRule : Obligations.FailCountRule := by
  intro s t h hstep hne
  rcases step_cases hstep with ⟨-, rfl⟩ | ⟨ts, ⟨p, i, -, -, he⟩ | ⟨p, r, -, -, ha⟩ | ⟨p, -, rfl⟩ | ⟨hs, hx⟩ |
    ⟨p, -, hx⟩ | ⟨hs, rfl⟩⟩
  · exact absurd rfl hne
  · obtain ⟨hf, -⟩ := exec_frame he
    exact absurd hf hne
  · obtain ⟨⟨-, -, -, -, -, hf, -⟩, -⟩ := hostAccess_frame ha
    exact absurd hf hne
  · exact absurd rfl hne
  · rcases rxeTurn_taking_cases hs hx with rfl | ⟨e, es, ht, hx⟩
    · exact absurd rfl hne
    · rcases rxeStep_failCnt_cases hx with hf | ⟨b, bytes, rfl, hc, hbytes, hend⟩
      · exact absurd hf hne
      · obtain ⟨P, hP, -, hall⟩ := h.payload_at_checksum hc b
        obtain rfl : s.rxLen :: P = bytes := Option.some.inj (hall.symm.trans hbytes)
        refine .inr ⟨ts, b, es, P, ht, hc, hP, ?_⟩
        rcases hend with ⟨hsum, hf⟩ | ⟨hsum, hf⟩
        · exact .inl ⟨hsum.symm, hf⟩
        · exact .inr ⟨Ne.symm hsum, hf ▸ bumpFailCnt_toNat (s := State.taken s ts (.byte b) es) h.params⟩
  · exact absurd (txeTurn_failCnt hx) hne
  · exact .inl ⟨ts, hs, rfl⟩

end Sys2Proof.Machine
end

section
/-! The words made of fields: which bits of STATUS, CONFIG, a flags word, SNAP_ENC and a zero-extended register hold what
(spec 20_memory.md R52-R54). -/

namespace Sys2Proof.Machine

theorem statusWord_flags (s : State) :
    (statusWord s).getLsbD 0 = s.busy ∧ (statusWord s).getLsbD 1 = s.rxValid ∧
      (statusWord s).getLsbD 2 = s.snapValid := by
  unfold statusWord
  simp only [BitVec.getLsbD_append (n := 31) (m := 1), BitVec.getLsbD_append]
  simp [flagBit]

theorem statusWord_numbers (s : State) :
    (statusWord s).extractLsb' 4 4 = s.code.bits ∧ (statusWord s).extractLsb' 8 3 = s.rxState.bits ∧
      (statusWord s).extractLsb' 16 8 = s.failCnt ∧ (statusWord s).extractLsb' 24 4 = s.op.bits := by
  unfold statusWord
  simp (disch := omega) only [BitVec.extractLsb'_append_eq_of_le (v := 31) (w := 1),
    BitVec.extractLsb'_append_eq_of_le, BitVec.extractLsb'_append_eq_of_add_le]
  simp

theorem statusWord_reserved (s : State) :
    (statusWord s).getLsbD 3 = false ∧ (statusWord s).extractLsb' 11 5 = 0 ∧ (statusWord s).extractLsb' 28 4 = 0 := by
  unfold statusWord
  simp (disch := omega) only [BitVec.extractLsb'_append_eq_of_le (v := 31) (w := 1),
    BitVec.extractLsb'_append_eq_of_le, BitVec.extractLsb'_append_eq_of_add_le,
    BitVec.getLsbD_append (n := 31) (m := 1), BitVec.getLsbD_append]
  simp

theorem configWord_fields (p : Params) :
    (configWord p).extractLsb' 0 8 = BitVec.ofNat 8 p.failCap ∧
      (configWord p).extractLsb' 8 9 = BitVec.ofNat 9 p.bufCap ∧
      (configWord p).extractLsb' 17 2 = BitVec.ofNat 2 p.rxSizeBias ∧ (configWord p).extractLsb' 19 13 = 0 := by
  unfold configWord
  simp (disch := omega) only [BitVec.extractLsb'_append_eq_of_le (v := 24) (w := 8),
    BitVec.extractLsb'_append_eq_of_add_le (v := 24) (w := 8), BitVec.extractLsb'_append_eq_of_le,
    BitVec.extractLsb'_append_eq_of_add_le]
  simp

theorem flagsWord_flags (f0 f1 f2 : Bool) :
    (flagsWord f0 f1 f2).getLsbD 0 = f0 ∧ (flagsWord f0 f1 f2).getLsbD 1 = f1 ∧ (flagsWord f0 f1 f2).getLsbD 2 = f2 := by
  unfold flagsWord
  simp only [BitVec.getLsbD_append (n := 31) (m := 1), BitVec.getLsbD_append]
  simp [flagBit]

theorem flagsWord_reserved (f0 f1 f2 : Bool) : (flagsWord f0 f1 f2).extractLsb' 3 29 = 0 := by
  unfold flagsWord
  simp (disch := omega) only [BitVec.extractLsb'_append_eq_of_le (v := 31) (w := 1),
    BitVec.extractLsb'_append_eq_of_le]
  simp

theorem encoderWord_halves (t : Snapshot) :
    (encoderWord t).extractLsb' 0 16 = t.encL ∧ (encoderWord t).extractLsb' 16 16 = t.encR :=
  ⟨BitVec.extractLsb'_append_eq_right, BitVec.extractLsb'_append_eq_left⟩

/-- A register narrower than the host word stands in its low bits, under zeros. -/
theorem zero_append_eq_setWidth {n m : Nat} (x : BitVec n) : (0#m ++ x : BitVec (m + n)) = x.setWidth (m + n) := by
  rw [BitVec.setWidth_eq_append (by omega)]
  simp

theorem extractLsb'_setWidth_above {n m k l : Nat} (x : BitVec n) (h : n ≤ k) :
    (x.setWidth m).extractLsb' k l = 0 := by
  refine BitVec.eq_of_getLsbD_eq fun b _ => ?_
  simp [BitVec.getLsbD_of_ge x (k + b) (by omega)]

end Sys2Proof.Machine
end

section
/-! A HOST step that is no CMD write, as a read and as a write of one register (spec 43_host_interface.md R180, R181), and
a CMD write as the dispatch of its code (20_memory.md R55). -/

namespace Sys2Proof.Machine

variable {s : State} {p : HostPins} {ts : List Turn} {i : BitVec 10} {w : Word}

theorem decodeAccess_read (hq : p.hReq = true) (hw : p.hWe = false) : decodeAccess p = .error .readAccess := by
  rw [decodeAccess, if_neg (by simp [hq]), if_pos hw]

theorem decodeAccess_write_other (hq : p.hReq = true) (hw : p.hWe = true) (hi : p.hWidx ≠ 0x000#10) :
    decodeAccess p = .error .otherRegister := by
  rw [decodeAccess, if_neg (by simp [hq]), if_neg (by simp [hw]), if_neg hi]

theorem decodeAccess_cmdWrite (w : Word) : decodeAccess (cmdWrite w) = .ok (decodeCmd w) := rfl

theorem hostAccess_read (hq : p.hReq = true) (hw : p.hWe = false) : hostAccess p s = outcomeOf (hostRead p.hWidx s) := by
  rw [hostAccess, if_neg (by simp [hq]), if_neg (by simp [hw])]

theorem hostAccess_write (hq : p.hReq = true) (hw : p.hWe = true) :
    hostAccess p s = .next (hostWrite p.hWidx p.hWdata s) := by
  rw [hostAccess, if_neg (by simp [hq]), if_pos hw]

/-- A read of a specified word shows it, and writes nothing (43_host_interface.md R180). -/
theorem step_host_read (hs : s.schedule = .host p :: ts) (hq : p.hReq = true) (hw : p.hWe = false)
    (hv : view p.hWidx s = .ok w) : step s = .next { s with schedule := ts, hRdata := w } := by
  rw [step_host_register hs (decodeAccess_read hq hw), hostAccess_read hq hw, outcomeOf_eq_next, hostRead,
    view_withSchedule, hv]
  rfl

/-- A write to a word other than CMD (43_host_interface.md R181). -/
theorem step_host_write (hs : s.schedule = .host p :: ts) (hq : p.hReq = true) (hw : p.hWe = true)
    (hi : p.hWidx ≠ 0x000#10) : step s = .next (hostWrite p.hWidx p.hWdata (State.withSchedule ts s)) := by
  rw [step_host_register hs (decodeAccess_write_other hq hw hi), hostAccess_write hq hw]

/-! ### CMD -/

theorem step_cmdWrite (hs : s.schedule = .host (cmdWrite w) :: ts) :
    step s = exec (decodeCmd w) (State.withSchedule ts s) :=
  step_host_instr hs (decodeAccess_cmdWrite w)

/-- The instruction a CMD word selects has the code of the word (30_encoding.md R82, R83). -/
theorem encodeCode_decodeCmd (w : Word) : encodeCode (decodeCmd w) = cmdCode w := by
  unfold decodeCmd
  generalize cmdCode w = c
  revert c
  decide

/-- Only the operation field matters. -/
theorem decodeCmd_congr {w w' : Word} (h : cmdCode w = cmdCode w') : decodeCmd w = decodeCmd w' := by
  rw [decodeCmd, h, decodeCmd]

theorem cmdCode_congr {w w' : Word} (h : ∀ k : Nat, k < 4 → w.getLsbD k = w'.getLsbD k) : cmdCode w = cmdCode w' := by
  unfold cmdCode
  refine BitVec.eq_of_getLsbD_eq fun k hk => ?_
  simp [hk, h k hk]

theorem view_cmd (s : State) : view 0x000#10 s = .ok 0 := view_of_index (r := .cmd) s rfl

/-- Settles O4: a CMD write decodes to the instruction of its four low bits, and CMD reads 0. -/
theorem cmdHighBitsIgnored : Obligations.CmdHighBitsIgnored := by
  refine ⟨fun s w ts => ⟨step_cmdWrite rfl, encodeCode_decodeCmd w⟩, fun s w w' ts h => ?_, fun s d ts => ?_⟩
  · rw [step_cmdWrite (w := w) rfl, step_cmdWrite (w := w') rfl, decodeCmd_congr (cmdCode_congr h)]
    rfl
  · exact step_host_read rfl rfl rfl (view_cmd _)

end Sys2Proof.Machine
end

section
/-! The byte windows of the host register space, TXPAY and RXBUF, one byte of a word at a time (spec 20_memory.md R56,
R57). -/

namespace Sys2Proof.Machine

variable {s : State} {i : BitVec 10} {j : Nat} {w : Word}

theorem windowWord_eq_ok {f : Fault} {o : Option Word} : windowWord f o = .ok w ↔ o = some w := by
  cases o <;> simp [windowWord]

theorem le32_wordOfBytes (b0 b1 b2 b3 : Byte) : le32 (wordOfBytes b0 b1 b2 b3) = [b0, b1, b2, b3] := by
  obtain ⟨h0, h1, h2, h3⟩ := byteOfWord_wordOfBytes b0 b1 b2 b3
  simp only [le32, byteOfWord, Nat.mul_zero, Nat.mul_one, Nat.reduceMul, h0, h1, h2, h3]

/-- A word is the four bytes it is made of. -/
theorem wordOfBytes_eq_iff {b0 b1 b2 b3 : Byte} :
    wordOfBytes b0 b1 b2 b3 = w ↔
      b0 = byteOfWord w 0 ∧ b1 = byteOfWord w 1 ∧ b2 = byteOfWord w 2 ∧ b3 = byteOfWord w 3 := by
  constructor
  · rintro rfl
    simpa [le32, eq_comm] using le32_wordOfBytes b0 b1 b2 b3
  · rintro ⟨rfl, rfl, rfl, rfl⟩
    exact wordOfBytes_byteOfWord w

/-! ### TXPAY -/

theorem view_txpay (s : State) (hj : j < 64) (hi : i.toNat = 0x040 + j) :
    view i s = windowWord .txpayUnspecified (txpayWord s j) := view_of_index (r := .txpay ⟨j, hj⟩) s hi

theorem hostWrite_txpay (w : Word) (s : State) (hj : j < 64) (hi : i.toNat = 0x040 + j) :
    hostWrite i w s = writeTxpayWord j w s := hostWrite_of_index (r := .txpay ⟨j, hj⟩) w s hi

theorem txpayWord_of_readList {b0 b1 b2 b3 : Byte} (h : Memory.readList s.txpay (4 * j) 4 = some [b0, b1, b2, b3]) :
    txpayWord s j = some (wordOfBytes b0 b1 b2 b3) := by
  rw [txpayWord, h]

theorem txpayWord_none (h : Memory.readList s.txpay (4 * j) 4 = none) : txpayWord s j = none := by
  rw [txpayWord, h]

/-- A word of TXPAY is read back whole. -/
theorem txpayWord_writeTxpayWord (j : Nat) (w : Word) (s : State) : txpayWord (writeTxpayWord j w s) j = some w := by
  rw [txpayWord_of_readList (Memory.readList_writeList s.txpay (4 * j) (le32 w)), wordOfBytes_byteOfWord]

/-- Settles O36: the word is written and read as its four bytes, all of which must have been written. -/
theorem txpayWindow : Obligations.TxpayWindow := by
  intro s j i hj hi
  refine ⟨fun w => ?_, fun b0 b1 b2 b3 h => ?_, fun k hk h => ?_⟩
  · rw [hostWrite_txpay w s hj hi, view_txpay _ hj hi, txpayWord_writeTxpayWord]
    rfl
  · refine ⟨wordOfBytes b0 b1 b2 b3, ?_, byteOfWord_wordOfBytes b0 b1 b2 b3⟩
    rw [view_txpay s hj hi, txpayWord_of_readList h]
    rfl
  · rw [view_txpay s hj hi, txpayWord_none (Memory.readList_none hk h)]
    rfl

/-! ### RXBUF -/

theorem view_rxBuf (s : State) (hj : j ≤ 64) (hi : i.toNat = 0x080 + j) :
    view i s = windowWord .rxBufUnspecified (rxBufWord s j) := view_of_index (r := .rxBuf ⟨j, by omega⟩) s hi

theorem rxBufWindowByte_of_le {a : Nat} (h : s.params.bufCap ≤ a) : rxBufWindowByte s a = some 0x00#8 := if_pos h

theorem rxBufWindowByte_of_lt {a : Nat} (h : a < s.params.bufCap) : rxBufWindowByte s a = Memory.read s.rxBuf a :=
  if_neg (Nat.not_le_of_lt h)

theorem rxBufWord_of_bytes {b0 b1 b2 b3 : Byte} (h0 : rxBufWindowByte s (4 * j) = some b0)
    (h1 : rxBufWindowByte s (4 * j + 1) = some b1) (h2 : rxBufWindowByte s (4 * j + 2) = some b2)
    (h3 : rxBufWindowByte s (4 * j + 3) = some b3) : rxBufWord s j = some (wordOfBytes b0 b1 b2 b3) := by
  simp only [rxBufWord, h0, h1, h2, h3]

/-- A word of RXBUF has a value exactly when each of its four positions has, and then it is made of them. -/
theorem rxBufWord_eq_some :
    rxBufWord s j = some w ↔ ∀ k, k < 4 → rxBufWindowByte s (4 * j + k) = some (byteOfWord w k) := by
  constructor
  · intro h k hk
    unfold rxBufWord at h
    split at h
    · obtain ⟨rfl, rfl, rfl, rfl⟩ := wordOfBytes_eq_iff.mp (Option.some.inj h)
      interval_cases k <;> assumption
    · cases h
  · intro h
    rw [rxBufWord_of_bytes (h 0 (by omega)) (h 1 (by omega)) (h 2 (by omega)) (h 3 (by omega)), wordOfBytes_byteOfWord]

theorem rxBufWord_isSome (h : ∀ k, k < 4 → ∃ b, rxBufWindowByte s (4 * j + k) = some b) :
    ∃ w, rxBufWord s j = some w := by
  obtain ⟨b0, h0⟩ := h 0 (by omega)
  obtain ⟨b1, h1⟩ := h 1 (by omega)
  obtain ⟨b2, h2⟩ := h 2 (by omega)
  obtain ⟨b3, h3⟩ := h 3 (by omega)
  exact ⟨wordOfBytes b0 b1 b2 b3, rxBufWord_of_bytes h0 h1 h2 h3⟩

theorem rxBufWord_none {k : Nat} (hk : k < 4) (h : rxBufWindowByte s (4 * j + k) = none) : rxBufWord s j = none := by
  by_contra hne
  obtain ⟨w, hw⟩ := Option.ne_none_iff_exists'.mp hne
  rw [rxBufWord_eq_some.mp hw k hk] at h
  cases h

/-- Settles O37: each position of the word reads as the window byte there, which is 0x00 from BUF_CAP on. -/
theorem rxbufWindow : Obligations.RxbufWindow := by
  intro s j i hj hi
  rw [view_rxBuf s hj hi]
  refine ⟨fun w hw k hk => ?_, fun h => ?_, fun k hk hlt h => ?_⟩
  · have hb := rxBufWord_eq_some.mp (windowWord_eq_ok.mp hw) k hk
    refine ⟨fun hle => ?_, fun hlt => ?_⟩
    · rw [rxBufWindowByte_of_le hle] at hb
      exact (Option.some.inj hb).symm
    · rwa [rxBufWindowByte_of_lt hlt] at hb
  · obtain ⟨w, hw⟩ : ∃ w, rxBufWord s j = some w := by
      refine rxBufWord_isSome fun k hk => ?_
      rcases Nat.lt_or_ge (4 * j + k) s.params.bufCap with hlt | hle
      · rw [rxBufWindowByte_of_lt hlt]
        exact Option.isSome_iff_exists.mp (h k hk hlt)
      · exact ⟨_, rxBufWindowByte_of_le hle⟩
    exact ⟨w, windowWord_eq_ok.mpr hw⟩
  · rw [rxBufWord_none hk ((rxBufWindowByte_of_lt hlt).trans h)]
    rfl

end Sys2Proof.Machine
end

section
/-! What each register of the map reads as and takes, and what an unmapped word does (spec 20_memory.md R51-R54). -/

namespace Sys2Proof.Machine

variable {i : BitVec 10}

/-! ### The control registers -/

theorem view_status (s : State) : view 0x001#10 s = .ok (statusWord s) := view_of_index (r := .status) s rfl

theorem view_arg0 (s : State) : view 0x002#10 s = .ok (s.arg0.setWidth 32) := view_of_index (r := .arg0) s rfl

theorem view_arg1 (s : State) : view 0x003#10 s = .ok (s.arg1.setWidth 32) := view_of_index (r := .arg1) s rfl

theorem view_kp (s : State) : view 0x004#10 s = .ok s.kp := view_of_index (r := .kp) s rfl

theorem view_ki (s : State) : view 0x005#10 s = .ok s.ki := view_of_index (r := .ki) s rfl

theorem view_kd (s : State) : view 0x006#10 s = .ok s.kd := view_of_index (r := .kd) s rfl

theorem view_rxSize (s : State) : view 0x007#10 s = .ok (s.rxSize.setWidth 32) := view_of_index (r := .rxSize) s rfl

theorem view_config (s : State) : view 0x008#10 s = .ok (configWord s.params) := view_of_index (r := .config) s rfl

theorem hostWrite_arg0 (w : Word) (s : State) : hostWrite 0x002#10 w s = { s with arg0 := w.extractLsb' 0 16 } :=
  hostWrite_of_index (r := .arg0) w s rfl

theorem hostWrite_arg1 (w : Word) (s : State) : hostWrite 0x003#10 w s = { s with arg1 := w.extractLsb' 0 16 } :=
  hostWrite_of_index (r := .arg1) w s rfl

/-! ### The snapshot words -/

theorem view_snapBtn (s : State) : view 0x100#10 s = snapWord s (flagsWord s.snap.btn0 s.snap.btn1 s.snap.btn2) :=
  view_of_index (r := .snapBtn) s rfl

theorem view_snapBump (s : State) : view 0x101#10 s = snapWord s (flagsWord s.snap.bumpL s.snap.bumpC s.snap.bumpR) :=
  view_of_index (r := .snapBump) s rfl

theorem view_snapDrop (s : State) : view 0x102#10 s = snapWord s (flagsWord s.snap.dropL s.snap.dropC s.snap.dropR) :=
  view_of_index (r := .snapDrop) s rfl

theorem view_snapEnc (s : State) : view 0x103#10 s = snapWord s (encoderWord s.snap) :=
  view_of_index (r := .snapEnc) s rfl

theorem view_snapExtra (s : State) (k : Fin 16) (hi : i.toNat = 0x104 + k.val) :
    view i s = snapWord s s.snap.extra[k] := view_of_index (r := .snapExtra k) s hi

theorem snapWord_valid {s : State} {w : Word} (h : s.snapValid = true) : snapWord s w = .ok w := if_pos h

theorem snapWord_invalid {s : State} {w : Word} (h : s.snapValid = false) :
    snapWord s w = .error .snapshotUnspecified := if_neg (by simp [h])

theorem snapWord_eq_ok {s : State} {w v : Word} (h : snapWord s w = .ok v) : w = v := by
  unfold snapWord at h
  split at h <;> cases h
  rfl

/-- A snapshot word of three flags, with its reserved bits. -/
theorem view_flags {s : State} {f0 f1 f2 : Bool} (h : view i s = snapWord s (flagsWord f0 f1 f2))
    (hv : s.snapValid = true) :
    ∃ w, view i s = .ok w ∧ w.getLsbD 0 = f0 ∧ w.getLsbD 1 = f1 ∧ w.getLsbD 2 = f2 ∧ w.extractLsb' 3 29 = 0 := by
  obtain ⟨h0, h1, h2⟩ := flagsWord_flags f0 f1 f2
  exact ⟨_, h.trans (snapWord_valid hv), h0, h1, h2, flagsWord_reserved f0 f1 f2⟩

/-- The words 0x100 to 0x113 are snapshot words. -/
theorem view_snapshot (s : State) (hlo : 0x100 ≤ i.toNat) (hhi : i.toNat ≤ 0x113) : ∃ w, view i s = snapWord s w := by
  by_cases hx : 0x104 ≤ i.toNat
  · exact ⟨_, view_snapExtra s ⟨i.toNat - 0x104, by omega⟩ (show i.toNat = 0x104 + (i.toNat - 0x104) by omega)⟩
  · have hi : i = 0x100#10 ∨ i = 0x101#10 ∨ i = 0x102#10 ∨ i = 0x103#10 := by bv_omega
    rcases hi with rfl | rfl | rfl | rfl
    · exact ⟨_, view_snapBtn s⟩
    · exact ⟨_, view_snapBump s⟩
    · exact ⟨_, view_snapDrop s⟩
    · exact ⟨_, view_snapEnc s⟩

theorem view_snapshot_unspecified {s : State} (h : s.snapValid = false) (hlo : 0x100 ≤ i.toNat) (hhi : i.toNat ≤ 0x113) :
    view i s = .error .snapshotUnspecified := by
  obtain ⟨w, hw⟩ := view_snapshot s hlo hhi
  rw [hw, snapWord_invalid h]

/-! ### Unmapped words -/

/-- The word indexes 20_memory.md R52 lists. -/
theorem regIndex_range (r : HostReg) :
    regIndex r ≤ 0x008 ∨ (0x040 ≤ regIndex r ∧ regIndex r ≤ 0x0C0) ∨ (0x100 ≤ regIndex r ∧ regIndex r ≤ 0x113) := by
  cases r with
  | txpay j => simp only [regIndex]; omega
  | rxBuf j => simp only [regIndex]; omega
  | snapExtra k => simp only [regIndex]; omega
  | _ => decide

theorem hostReg_unmapped
    (h : (0x009 ≤ i.toNat ∧ i.toNat ≤ 0x03F) ∨ (0x0C1 ≤ i.toNat ∧ i.toNat ≤ 0x0FF) ∨ 0x114 ≤ i.toNat) :
    hostReg i = none :=
  hostReg_eq_none fun r => by have := regIndex_range r; omega

theorem view_unmapped (s : State) (h : hostReg i = none) : view i s = .ok 0 := by
  rw [view, h]

theorem hostWrite_unmapped (w : Word) (s : State) (h : hostReg i = none) : hostWrite i w s = s := by
  rw [hostWrite, h]

/-! ### The statements -/

/-- Settles O38: STATUS shows `statusWord`, whose fields are the numbers of CODE, rx_state and OP. -/
theorem statusFields : Obligations.StatusFields := by
  intro s
  obtain ⟨hbusy, hvalid, hsnap⟩ := statusWord_flags s
  obtain ⟨hcode, hstate, hfail, hop⟩ := statusWord_numbers s
  obtain ⟨h3, h11, h28⟩ := statusWord_reserved s
  refine ⟨statusWord s, view_status s, fun d ts => ⟨step_host_read rfl rfl rfl (view_status _), ?_⟩,
    hbusy, hvalid, hsnap, h3, ?_, ?_, h11, hfail, ?_, h28⟩
  · rw [step_host_write rfl rfl rfl (by simp), hostWrite_of_index (r := .status) _ _ rfl]
    rfl
  · rw [hcode]
    cases s.code <;> rfl
  · rw [hstate]
    cases s.rxState <;> rfl
  · rw [hop]
    cases s.op <;> rfl

/-- Settles O40: each register by its own view, and every snapshot word by SNAPVALID. -/
theorem registerViews : Obligations.RegisterViews := by
  intro s
  refine ⟨view_cmd s, ?_, ?_, view_kp s, view_ki s, view_kd s, ?_, fun hv => ⟨?_, ?_, ?_, ?_, fun k i hi => ?_⟩,
    fun hv i hlo hhi => view_snapshot_unspecified hv hlo hhi⟩
  · rw [view_arg0, zero_append_eq_setWidth]
  · rw [view_arg1, zero_append_eq_setWidth]
  · rw [view_rxSize, zero_append_eq_setWidth]
  · exact view_flags (view_snapBtn s) hv
  · exact view_flags (view_snapBump s) hv
  · exact view_flags (view_snapDrop s) hv
  · exact ⟨_, (view_snapEnc s).trans (snapWord_valid hv), encoderWord_halves s.snap⟩
  · exact (view_snapExtra s k hi).trans (snapWord_valid hv)

/-- Settles O41: an unmapped word by the map's ranges, a register's reserved bits by the word it shows. -/
theorem unmappedWords : Obligations.UnmappedWords := by
  intro s i w w'
  refine ⟨fun h => ?_, fun h => ⟨fun hw => ?_, fun v hv => ?_⟩, ?_, ?_, ?_, fun h v hv => ?_⟩
  · have hn := hostReg_unmapped h
    exact ⟨view_unmapped s hn, hostWrite_unmapped w s hn⟩
  · rcases h with rfl | rfl
    · rw [hostWrite_arg0, hostWrite_arg0, hw]
    · rw [hostWrite_arg1, hostWrite_arg1, hw]
  · rcases h with rfl | rfl
    · cases (view_arg0 s).symm.trans hv
      exact extractLsb'_setWidth_above s.arg0 (by omega)
    · cases (view_arg1 s).symm.trans hv
      exact extractLsb'_setWidth_above s.arg1 (by omega)
  · rintro rfl v hv
    cases (view_status s).symm.trans hv
    obtain ⟨h3, h11, h28⟩ := statusWord_reserved s
    exact ⟨h3, h11, h28, hostWrite_of_index (r := .status) w s rfl⟩
  · rintro rfl v hv
    cases (view_rxSize s).symm.trans hv
    exact ⟨extractLsb'_setWidth_above s.rxSize (by omega), hostWrite_of_index (r := .rxSize) w s rfl⟩
  · rintro rfl v hv
    cases (view_config s).symm.trans hv
    obtain ⟨-, -, -, h19⟩ := configWord_fields s.params
    exact ⟨h19, hostWrite_of_index (r := .config) w s rfl⟩
  · rcases h with rfl | rfl | rfl
    · cases snapWord_eq_ok ((view_snapBtn s).symm.trans hv)
      exact ⟨flagsWord_reserved _ _ _, hostWrite_of_index (r := .snapBtn) w s rfl⟩
    · cases snapWord_eq_ok ((view_snapBump s).symm.trans hv)
      exact ⟨flagsWord_reserved _ _ _, hostWrite_of_index (r := .snapBump) w s rfl⟩
    · cases snapWord_eq_ok ((view_snapDrop s).symm.trans hv)
      exact ⟨flagsWord_reserved _ _ _, hostWrite_of_index (r := .snapDrop) w s rfl⟩

end Sys2Proof.Machine
end

section
/-! What the receive port's streams and the parameters do in a step: only the environment offers, only the RXE consumes,
and no turn touches a parameter (spec 10_state.md R39, 20_memory.md R54, R66). -/

namespace Sys2Proof.Machine

variable {s t : State}

/-- The parameters and the receive streams are as before. -/
def State.sameInputs (s t : State) : Prop :=
  t.params = s.params ∧ t.rxStream = s.rxStream ∧ t.rxTaken = s.rxTaken

theorem sameInputs_refl (s : State) : State.sameInputs s s := ⟨rfl, rfl, rfl⟩

theorem exec_sameInputs {i : Instr} (h : exec i s = .next t) : State.sameInputs s t := by
  obtain ⟨-, hp, hs, ht, -⟩ := exec_frame h
  exact ⟨hp, hs, ht⟩

theorem hostAccess_sameInputs {p : HostPins} (h : hostAccess p s = .next t) : State.sameInputs s t := by
  rcases hostAccess_cases h with ⟨-, rfl⟩ | ⟨-, -, rfl⟩ | ⟨-, -, w, -, rfl⟩
  · exact sameInputs_refl _
  · rcases hostWrite_cases p.hWidx p.hWdata s with hw | ⟨a, hw⟩ | ⟨a, hw⟩ | ⟨a, hw⟩ | ⟨a, hw⟩ | ⟨a, hw⟩ | ⟨j, -, hw⟩ <;>
      rw [hw] <;> exact sameInputs_refl _
  · exact sameInputs_refl _

/-- The event is consumed before the engine's step, which touches neither stream. -/
theorem rxeStep_sameInputs {e : RxEvent} (h : rxeStep e s = .ok t) : State.sameInputs s t := by
  rcases rxeStep_cases h with ⟨-, rfl⟩ | ⟨b, -, ⟨-, rfl⟩ | ⟨-, -, rfl⟩ | ⟨-, -, rfl⟩ | ⟨-, -, rfl⟩ |
    ⟨-, -, bytes, -, ⟨-, hm⟩ | ⟨-, rfl⟩⟩⟩
  case inr.inl => unfold rxAwaitHeader; split <;> exact sameInputs_refl _
  case inr.inr.inr.inr.inr.inl =>
    rcases rxMatch_cases hm with ⟨-, rfl⟩ | ⟨-, P, -, ⟨-, rfl⟩ | ⟨-, rfl⟩⟩ <;> exact sameInputs_refl _
  case inr.inr.inr.inr.inr.inr => unfold rxMismatch; split <;> exact sameInputs_refl _
  all_goals exact sameInputs_refl _

theorem txeTurn_sameInputs {p : TxPins} (h : txeTurn p s = .next t) : State.sameInputs s t := by
  rcases txeTurn_cases h with ⟨-, rfl⟩ | ⟨-, h⟩
  · exact sameInputs_refl _
  · rcases txeStep_cases h with ⟨-, rfl⟩ | ⟨-, -, rfl⟩ | ⟨-, -, b, -, ⟨-, rfl⟩ | ⟨-, rfl⟩⟩ <;> exact sameInputs_refl _

/-- What a step does to the parameters and the receive streams. -/
theorem step_inputs_cases (h : step s = .next t) :
    State.sameInputs s t ∨
    (∃ p ts, s.schedule = .env p :: ts ∧ t = envOffer p (State.withSchedule ts s)) ∨
    (∃ ts e es, State.taking s ts e es ∧ State.sameInputs (State.taken s ts e es) t) := by
  rcases step_cases h with ⟨-, rfl⟩ | ⟨ts, ⟨p, i, -, -, h⟩ | ⟨p, r, -, -, h⟩ | ⟨p, hs, rfl⟩ | ⟨hs, h⟩ | ⟨p, -, h⟩ | ⟨-, rfl⟩⟩
  · exact .inl (sameInputs_refl _)
  · have hf := exec_sameInputs h
    exact .inl hf
  · have hf := hostAccess_sameInputs h
    exact .inl hf
  · exact .inr (.inl ⟨p, ts, hs, rfl⟩)
  · rcases rxeTurn_taking_cases hs h with rfl | ⟨e, es, htk, h⟩
    · exact .inl (sameInputs_refl _)
    · exact .inr (.inr ⟨ts, e, es, htk, rxeStep_sameInputs h⟩)
  · have hf := txeTurn_sameInputs h
    exact .inl hf
  · exact .inl (sameInputs_refl _)

theorem step_params (h : step s = .next t) : t.params = s.params := by
  rcases step_inputs_cases h with ⟨hp, -, -⟩ | ⟨p, ts, -, rfl⟩ | ⟨ts, e, es, -, hp, -, -⟩
  · exact hp
  · rfl
  · exact hp

/-- Settles O39: no turn touches a parameter, and each fits its field of CONFIG. -/
theorem configConstant : Obligations.ConfigConstant := by
  refine ⟨fun s t h => step_params h, fun s hp => ?_⟩
  obtain ⟨hfail, hbuf, hbias, hzero⟩ := configWord_fields s.params
  obtain ⟨-, hfc, -, hbc, hrb⟩ := hp
  refine ⟨configWord s.params, view_config s, ?_, ?_, ?_, hzero⟩
  · rw [hfail, BitVec.toNat_ofNat]
    omega
  · rw [hbuf, BitVec.toNat_ofNat]
    omega
  · rw [hbias, BitVec.toNat_ofNat]
    omega

/-- Settles O50: the RXE takes the head of the stream, the environment adds at its end, and no other turn touches it. -/
theorem receiveOrder : Obligations.ReceiveOrder := by
  intro s t h
  rcases step_inputs_cases h with ⟨-, hs, ht⟩ | ⟨p, ts, hsch, rfl⟩ | ⟨ts, e, es, ⟨-, hb, ho, hs⟩, -, hes, ht⟩
  · exact .inr (.inl ⟨ht, hs⟩)
  · exact .inr (.inr ⟨p, ts, hsch, rfl, rfl⟩)
  · exact .inl ⟨e, hs.trans (congrArg (e :: ·) hes.symm), ht, hb, ho⟩

end Sys2Proof.Machine
end

section
/-! The decoder and the encoder against each other and against the opcode table (spec 30_encoding.md R82, R83, 20_memory.md
R55): everything about a CMD word is a fact about its four low bits. -/

namespace Sys2Proof.Machine

/-! ### The CMD word -/

theorem cmdCode_encodeWord (i : Instr) : cmdCode (encodeWord i) = encodeCode i := by
  unfold cmdCode encodeWord
  generalize encodeCode i = c
  revert c
  decide

theorem setWidth_cmdCode (w : Word) : (cmdCode w).setWidth 32 = w &&& 0x0000000F#32 := by
  refine BitVec.eq_of_toNat_eq ?_
  have h : w.toNat &&& 15 = w.toNat % 16 := Nat.and_two_pow_sub_one_eq_mod w.toNat 4
  simp only [cmdCode, BitVec.toNat_setWidth, BitVec.extractLsb'_toNat, BitVec.toNat_and, BitVec.toNat_ofNat,
    Nat.shiftRight_zero, Nat.reducePow, Nat.reduceMod, h]
  omega

theorem encodeWord_decodeCmd (w : Word) : encodeWord (decodeCmd w) = w &&& 0x0000000F#32 := by
  rw [encodeWord, encodeCode_decodeCmd, setWidth_cmdCode]

theorem decodeCmd_wf (w : Word) : (decodeCmd w).wf = true := by
  unfold decodeCmd
  generalize cmdCode w = c
  revert c
  decide

/-- The code of a well-formed instruction selects it. -/
theorem decodeCmd_encodeWord {i : Instr} (h : i.wf = true) : decodeCmd (encodeWord i) = i := by
  cases i with
  | illegalAB code => revert code; decide
  | illegalCF code => revert code; decide
  | _ => rfl

theorem cmdWordOfBits_toNat (w : Word) : cmdWordOfBits 32 w.toNat = w := by
  rw [cmdWordOfBits, Nat.mod_eq_of_lt w.isLt, BitVec.ofNat_toNat, BitVec.setWidth_eq]

theorem decodeTableWord_toNat (w : Word) : decodeTableWord 32 w.toNat = some (decodeCmd w) := by
  rw [decodeTableWord, if_pos (Nat.le_refl 32), cmdWordOfBits_toNat, decodeAccess_cmdWrite]
  rfl

/-- Settles O2: the code is all that either side reads, and it selects a well-formed instruction. -/
theorem decodeEncodeAgree : Obligations.DecodeEncodeAgree := by
  refine ⟨fun i h => ⟨?_, ?_⟩, fun w => ⟨decodeCmd w, decodeCmd_wf w, decodeAccess_cmdWrite w, encodeWord_decodeCmd w⟩⟩
  · rw [encode, decodeAccess_cmdWrite, decodeCmd_encodeWord h]
  · rw [decodeTableWord_toNat, decodeCmd_encodeWord h]

/-! ### The rows of the opcode table -/

theorem encodeWord_in_row {i : Instr} (h : i.wf = true) : encodeWord i &&& (opcodeRow i).mask = (opcodeRow i).value := by
  cases i with
  | illegalAB code => exact Laws.RowWord.illegalAB code h
  | illegalCF code => exact Laws.RowWord.illegalCF code h
  | _ => rfl

theorem opcodeRow_mem (i : Instr) : opcodeRow i ∈ opcodeRows := by
  cases i <;> simp [opcodeRows, opcodeRow]

/-- No row of the table looks at the ignored bits 31:4. -/
theorem opcodeRows_mask : ∀ r ∈ opcodeRows, 0x0000000F#32 &&& r.mask = r.mask := by decide

/-- So a row matches a word exactly when it matches the encoding of the instruction the word decodes to. -/
theorem and_mask_eq_encodeWord {r : OpcodeRow} (w : Word) (hr : r ∈ opcodeRows) :
    w &&& r.mask = encodeWord (decodeCmd w) &&& r.mask := by
  rw [encodeWord_decodeCmd, BitVec.and_assoc, opcodeRows_mask r hr]

/-- No two rows of the table match one code. -/
theorem opcodeRows_disjoint :
    ∀ r ∈ opcodeRows, ∀ r' ∈ opcodeRows, ∀ c : BitVec 4,
      c.setWidth 32 &&& r.mask = r.value → c.setWidth 32 &&& r'.mask = r'.value → r = r' := by decide

/-- Settles O3: the row of the instruction decoded matches its encoding, and rows are disjoint. -/
theorem opcodeRowsPartition : Obligations.OpcodeRowsPartition := by
  intro w
  have hmem := opcodeRow_mem (decodeCmd w)
  have hrow := encodeWord_in_row (decodeCmd_wf w)
  refine ⟨hmem, ?_, fun r hr h => ?_⟩
  · rw [and_mask_eq_encodeWord w hmem, hrow]
  · rw [and_mask_eq_encodeWord w hr] at h
    exact opcodeRows_disjoint r hr _ hmem _ h hrow

/-- Settles O1: twelve words, one in each row. -/
theorem cmdWordsDecode : Obligations.CmdWordsDecode := by
  unfold Obligations.CmdWordsDecode
  decide

end Sys2Proof.Machine
end

section
/-! The dispatch of an encode: it composes the frame of its payload and starts to send (spec 41_encoder.md R130, R132). Each
typed command is then its frame, byte by byte (30_encoding.md R76-R80). -/

namespace Sys2Proof.Machine

variable {s : State} {i : Instr} {o : OpCode} {P : List Byte}

/-- Composing a frame writes the bytes of the frame, the transmit counters, OP and BUSY, and nothing else. -/
theorem startTransmit_startsSending (o : OpCode) (s : State) (h : P.length ≤ 255) :
    State.startsSending s (startTransmit o P s) o (P.length + 4) := by
  have htxN : (startTransmit o P s).txN.toNat = P.length + 4 := by
    rw [startTransmit_txN, BitVec.toNat_ofNat]
    omega
  have htxf : Memory.sameOutside s.txf (startTransmit o P s).txf 0 (P.length + 4) := fun a ha =>
    Memory.read_writeList_outside (frame P) s.txf 0 a (frame_length P ▸ ha)
  exact ⟨rfl, rfl, htxN, rfl, rfl, sameReceive_refl s, ⟨rfl, rfl, rfl, rfl, rfl, rfl⟩, ⟨rfl, rfl, rfl, rfl, rfl, rfl⟩, htxf⟩

theorem rawCommand_ok (h : rawPayload s = some P) : rawCommand s = .ok (startTransmit .encRaw P s) := by
  rw [rawCommand, h]

theorem Encodes.exec_idle (h : Encodes s i o P) (hb : s.busy = false) : exec i s = .next (startTransmit o P s) := by
  cases h with
  | raw P hP => exact (unlessBusy_idle hb).trans (outcomeOf_eq_next.mpr (rawCommand_ok hP))
  | _ => exact unlessBusy_idle hb

/-- What every encode leaves, for the `n` bytes `bs` of its frame. The checksum byte is accumulated from the left, as the
frames of R76-R80 write it. -/
theorem Encodes.composes {bs : List Byte} {n : Nat} (h : Encodes s i o P) (hb : s.busy = false) (hn : P.length + 4 = n)
    (hbs : [0xAA#8, 0x55#8, lengthByte P] ++ P ++ [(lengthByte P :: P).foldl (· ^^^ ·) 0x00#8] = bs) :
    ∃ t, exec i s = .next t ∧ Memory.readList t.txf 0 n = some bs ∧ State.startsSending s t o n := by
  subst hn
  rw [← cks_eq_foldl] at hbs
  exact ⟨_, h.exec_idle hb, (startTransmit_frame o P s).trans (congrArg some hbs),
    startTransmit_startsSending o s h.payload_length⟩

/-! ### The typed commands -/

/-- Settles O18: the frame of the Drive sub-payload. -/
theorem encDriveComposes : Obligations.EncDriveComposes := by
  intro s hb
  refine Encodes.drive.composes hb rfl ?_
  simp [drivePayload, le16, lo8, hi8, lengthByte]

/-- Settles O19: the frame of the PID default sub-payload. -/
theorem encPidDefaultComposes : Obligations.EncPidDefaultComposes := fun _ hb => Encodes.pidDefault.composes hb rfl rfl

/-- Settles O20: the frame of the PID user sub-payload. -/
theorem encPidUserComposes : Obligations.EncPidUserComposes := by
  intro s hb
  obtain ⟨t, hexec, hframe, hstart⟩ := Encodes.pidUser.composes hb rfl rfl
  refine ⟨t, _, hexec, hframe, ?_, hstart⟩
  simp [pidUserPayload, le32, byteOfWord, lengthByte]

/-- Settles O21: the frame of the Play sound sub-payload. -/
theorem encSoundComposes : Obligations.EncSoundComposes := by
  intro s hb
  refine Encodes.sound.composes hb rfl ?_
  simp [soundPayload, lo8, lengthByte]

/-- Settles O22: the frame of the Request info sub-payload. -/
theorem encReqinfoComposes : Obligations.EncReqinfoComposes := fun _ hb => Encodes.reqinfo.composes hb rfl rfl

end Sys2Proof.Machine
end

section
/-! One step of the receive engine, byte by byte (spec 40_receiver.md R100-R110): one lemma per case of the engine, then
what the invariant adds where the step stores into `rx_buf`. -/

namespace Sys2Proof.Machine

variable {s t : State} {ts : List Turn} {e : RxEvent} {es : List RxEvent} {b : Byte} {P : List Byte}

/-! ### The engine, one lemma per case -/

/-- A turn that takes an event is the engine's step on it. -/
theorem step_taking (ht : State.taking s ts e es) (h : rxeStep e (State.taken s ts e es) = .ok t) :
    step s = .next t := by
  rw [step_rxe ht.1, rxeTurn_taking ht, h]
  rfl

theorem rxeStep_header (hs : s.rxState = .awaitHeader) (hw : s.hdrAa = true) (hb : b = 0x55#8) :
    rxeStep (.byte b) s = .ok { s with rxState := .readLength, hdrAa := false } := by
  simp only [rxeStep, rxByteStep, hs, rxAwaitHeader, hw, hb, and_self, if_true]

theorem rxeStep_window (hs : s.rxState = .awaitHeader) (h : s.hdrAa = false ∨ b ≠ 0x55#8) :
    rxeStep (.byte b) s = .ok { s with hdrAa := b = 0xAA#8 } := by
  have hno : ¬ (s.hdrAa = true ∧ b = 0x55#8) := by
    rintro ⟨hw, hb⟩
    simp [hw, hb] at h
  simp only [rxeStep, rxByteStep, hs, rxAwaitHeader, if_neg hno]

theorem rxeStep_overrun (hs : s.rxState = .readLength) (h : s.params.bufCap < b.toNat + 2) :
    rxeStep (.byte b) s = .ok (finish .overrun { s with rxLen := b }) := by
  simp only [rxeStep, rxByteStep, hs, rxReadLength, if_pos h]

theorem rxeStep_length (hs : s.rxState = .readLength) (h : b.toNat + 2 ≤ s.params.bufCap) :
    rxeStep (.byte b) s = .ok { s with
      rxLen := b
      rxBuf := Memory.write s.rxBuf 0 b
      rxIdx := 1
      rxState := if b = 0x00#8 then .readChecksum else .readPayload } := by
  simp only [rxeStep, rxByteStep, hs, rxReadLength_of_le h]

/-- The payload is complete when `rx_idx` has reached `rx_len`: the nine-bit sums of R104 do not wrap. -/
theorem payload_last_iff (i : Count) (L : Byte) : i + 1 = L.setWidth 9 + 1 ↔ i.toNat = L.toNat := by
  have hL := L.isLt
  rw [add_left_inj, ← BitVec.toNat_inj, BitVec.toNat_setWidth]
  omega

theorem rxeStep_payload (hs : s.rxState = .readPayload) (h : s.rxIdx.toNat < s.params.bufCap) :
    rxeStep (.byte b) s = .ok { s with
      rxBuf := Memory.write s.rxBuf s.rxIdx.toNat b
      rxIdx := s.rxIdx + 1
      rxState := if s.rxIdx.toNat = s.rxLen.toNat then .readChecksum else .readPayload } := by
  simp only [rxeStep, rxByteStep, hs, rxReadPayload_of_lt h, payload_last_iff]

/-- The byte that ends a frame, stored behind a length byte and a payload that are `bytes`. -/
theorem rxeStep_checksum {bytes : List Byte} (hs : s.rxState = .readChecksum) (h : s.rxIdx.toNat < s.params.bufCap)
    (hb : Memory.readList (Memory.write s.rxBuf s.rxIdx.toNat b) 0 (s.rxLen.toNat + 1) = some bytes) :
    rxeStep (.byte b) s =
      if cks bytes = b then rxMatch { s with rxBuf := Memory.write s.rxBuf s.rxIdx.toNat b }
      else .ok (rxMismatch { s with rxBuf := Memory.write s.rxBuf s.rxIdx.toNat b }) := by
  simp only [rxeStep, rxByteStep, hs, rxReadChecksum_of_lt h hb]

theorem rxMismatch_cap (h : s.params.failCap ≤ s.failCnt.toNat + 1) :
    rxMismatch s = finish .cksumCap { s with failCnt := BitVec.ofNat 8 s.params.failCap } := by
  have hbump : bumpFailCnt s = s.params.failCap := Nat.min_eq_right h
  rw [rxMismatch, if_pos hbump, hbump]

theorem rxMismatch_below (h : s.failCnt.toNat + 1 < s.params.failCap) :
    rxMismatch s = { s with failCnt := s.failCnt + 1, rxState := .awaitHeader, hdrAa := false, rxIdx := 0 } := by
  have hbump : bumpFailCnt s = s.failCnt.toNat + 1 := Nat.min_eq_left (Nat.le_of_lt h)
  have hcnt : BitVec.ofNat 8 (s.failCnt.toNat + 1) = s.failCnt + 1 := by
    rw [BitVec.ofNat_add, BitVec.ofNat_toNat, BitVec.setWidth_eq]
    rfl
  rw [rxMismatch, if_neg (by omega), hbump, hcnt]

/-! ### Dispatch and error -/

/-- Settles O10: with BUSY = 0 the dispatch is `startReceive`. -/
theorem receiveStarts : Obligations.ReceiveStarts := fun _ hb => ⟨unlessBusy_idle hb, unlessBusy_idle hb⟩

/-- Settles O33: the engine finishes with E_RX_IO, and the idle machine can dispatch again. -/
theorem receiveError : Obligations.ReceiveError := by
  intro s ts es ht
  have hstep : step s = .next (finish .rxIo (State.taken s ts .err es)) := step_taking ht rfl
  refine ⟨hstep, fun h => (h.receives ht).rxValid, fun t i hn hi => ?_⟩
  obtain rfl := Host.Outcome.next.inj (hstep.symm.trans hn)
  obtain ⟨hrecv, hpoll⟩ := receiveStarts (finish .rxIo (State.taken s ts .err es)) rfl
  rcases hi with rfl | rfl
  · exact ⟨_, hrecv, rfl, rfl, rfl, rfl⟩
  · exact ⟨_, hpoll, rfl, rfl, rfl, rfl⟩

/-! ### AWAIT_HEADER and READ_LENGTH -/

/-- Settles O28: the window is found at 0x55 after 0xAA, and slides on every other byte. -/
theorem headerWindow : Obligations.HeaderWindow := by
  intro s ts b es ht hs
  refine ⟨fun hw hb => step_taking ht (rxeStep_header hs hw hb), fun hslide => ?_⟩
  have hstep := step_taking ht (rxeStep_window (b := b) hs hslide)
  exact ⟨fun hb => by rw [hstep, decide_eq_true hb], fun hb => by rw [hstep, decide_eq_false hb]⟩

/-- Settles O29 (the model has a function `lengthByte`): the overrun check comes first, and a byte plus 2 is at most
257. -/
theorem Receiver.lengthByte : Obligations.LengthByte := by
  intro s ts b es ht hs
  have hb := b.isLt
  exact ⟨fun hgt => step_taking ht (rxeStep_overrun hs hgt), fun hle => step_taking ht (rxeStep_length hs hle),
    fun hcap => by omega⟩

/-! ### READ_PAYLOAD -/

/-- Within a frame the engine stores inside `rx_buf`. -/
theorem State.Inv.rxIdx_lt (h : s.Inv) (hs : s.rxState = .readPayload ∨ s.rxState = .readChecksum) :
    s.rxIdx.toNat < s.params.bufCap := by
  obtain ⟨hcap, -⟩ := h.frameSoFar hs
  rcases hs with hs | hs
  · obtain ⟨-, hi⟩ := h.idxInPayload hs
    omega
  · have hi := h.idxAtChecksum hs
    omega

/-- Settles O30 (the model has a function `payloadByte`): a frame that was begun fits the buffer. -/
theorem Receiver.payloadByte : Obligations.PayloadByte :=
  fun _ _ _ _ h ht hs => step_taking ht (rxeStep_payload hs (h.rxIdx_lt (.inl hs)))

/-! ### READ_CHECKSUM -/

/-- The byte that ends a frame, in a state a receive reaches: it is stored behind the payload `P`, and compared with the
checksum of the length byte and `P` (40_receiver.md R105). -/
theorem rxeStep_checksum_of_inv (h : s.Inv) (hs : s.rxState = .readChecksum)
    (hP : Memory.readList s.rxBuf 1 s.rxLen.toNat = some P) :
    rxeStep (.byte b) (State.taken s ts (.byte b) es) =
      if cks (s.rxLen :: P) = b then
        rxMatch { State.taken s ts (.byte b) es with rxBuf := Memory.write s.rxBuf (s.rxLen.toNat + 1) b }
      else
        .ok (rxMismatch { State.taken s ts (.byte b) es with
          rxBuf := Memory.write s.rxBuf (s.rxLen.toNat + 1) b }) := by
  obtain ⟨Q, hQ, -, hbytes⟩ := h.payload_at_checksum hs b
  obtain rfl : P = Q := Option.some.inj (hP.symm.trans hQ)
  rw [← h.idxAtChecksum hs]
  exact rxeStep_checksum hs (h.rxIdx_lt (.inr hs)) hbytes

/-- The payload of the frame in `rx_buf` is not touched by the byte stored behind it. -/
theorem framePayload_stored (h : s.Inv) (hs : s.rxState = .readChecksum)
    (hP : Memory.readList s.rxBuf 1 s.rxLen.toNat = some P) :
    framePayload { State.taken s ts e es with rxBuf := Memory.write s.rxBuf (s.rxLen.toNat + 1) b } = some P := by
  obtain ⟨-, h0, -⟩ := h.frameSoFar (.inr hs)
  refine framePayload_eq_some.mpr ⟨s.rxLen, ?_, ?_⟩
  · exact (Memory.read_write_below b (Nat.succ_pos _)).trans h0
  · rw [← hP]
    exact Memory.readList_congr fun i _ hi => Memory.read_write_below b (by omega)

/-- What a match answers: RECV leaves the snapshot alone, POLL takes all of it from a payload the layout fits
(40_receiver.md R106, 42_sensor_codec.md R166). -/
theorem rxMatch_of_payload (hP : framePayload s = some P) :
    ∃ c snap valid, rxMatch s = .ok (finish c { rxMatchWrites s with snap := snap, snapValid := valid }) ∧
      (s.op ≠ .poll → c = .ok ∧ snap = s.snap ∧ valid = s.snapValid) ∧
      (s.op = .poll → layoutFits s.params.layout P.length = false →
        c = .decodeShort ∧ snap = s.snap ∧ valid = s.snapValid) ∧
      (s.op = .poll → layoutFits s.params.layout P.length = true →
        c = .ok ∧ snap = snapshotOf s.params.layout P ∧ valid = true) := by
  by_cases ho : s.op = .poll
  · cases hf : layoutFits s.params.layout P.length with
    | true => exact ⟨_, _, _, rxMatch_poll_ok ho hP hf, by simp [ho]⟩
    | false => exact ⟨_, _, _, rxMatch_poll_short ho hP hf, by simp [ho]⟩
  · exact ⟨_, _, _, rxMatch_recv ho, by simp [ho]⟩

/-- Settles O31: `rxMatch` on the stored byte; every element it does not write is the one before. -/
theorem checksumMatch : Obligations.ChecksumMatch := by
  intro s ts b es P h ht hs hP hb
  have hlen : P.length = s.rxLen.toNat := ((Memory.readList_eq_some _ _ _ _).mp hP).1
  obtain ⟨-, -, -, -, hbias⟩ := h.params
  obtain ⟨c, snap, valid, hm, hrecv, hshort, hok⟩ :=
    rxMatch_of_payload (framePayload_stored (e := .byte b) (b := b) (ts := ts) (es := es) h hs hP)
  have hstep := step_taking ht ((rxeStep_checksum_of_inv h hs hP).trans ((if_pos hb.symm).trans hm))
  rw [hlen] at hshort hok
  exact ⟨_, hstep, rfl, rfl, rxSize_toNat s.rxLen hbias, rfl, rfl, rfl, rfl, rfl, rfl, rfl,
    fun ho => hrecv (by simp [State.taken, ho]), hshort, hok,
    ⟨rfl, rfl, rfl, rfl, rfl, rfl⟩, ⟨rfl, rfl, rfl⟩, ⟨rfl, rfl, rfl, rfl, rfl, rfl⟩⟩

/-- Settles O32: `rxMismatch` on the stored byte, below the cap and at it. -/
theorem checksumMismatch : Obligations.ChecksumMismatch := by
  intro s ts b es P h ht hs hP hb
  have hstep : step s = .next (rxMismatch _) :=
    step_taking ht ((rxeStep_checksum_of_inv h hs hP).trans (if_neg (Ne.symm hb)))
  exact ⟨fun hlt => hstep.trans (congrArg _ (rxMismatch_below hlt)),
    fun hle => hstep.trans (congrArg _ (rxMismatch_cap hle))⟩

end Sys2Proof.Machine
end

section
/-! A clean frame behind garbage (spec 40_receiver.md R102-R106): the run of the receive engine over bytes without a header,
over the header and the length byte, over the payload, and its last step at the checksum byte. -/

namespace Sys2Proof.Machine

variable {s t : State} {ts : List Turn} {e : RxEvent} {es rest : List RxEvent} {P : List Byte}

/-! ### Runs of the receive engine -/

/-- A receive that is running takes the event that is offered. -/
theorem State.Inv.taking (h : s.Inv) (hs : s.rxState ≠ .idle) (hstream : s.rxStream = e :: es)
    (hsched : s.schedule = .rxe :: ts) : State.taking s ts e es := by
  obtain ⟨hb, ho⟩ := h.receiving.mp hs
  exact ⟨hsched, hb, ho, hstream⟩

/-- Every run keeps the invariant. -/
theorem State.Inv.run {n : Nat} (h : s.Inv) (hrun : Host.Core.run Sys2Proof.core n s = .next t) : t.Inv := by
  induction n generalizing s with
  | zero =>
    cases hrun
    exact h
  | succ n ih =>
    cases hstep : step s with
    | next u => exact ih (stepKeepsInvariant s u h hstep) ((run_succ hstep).symm.trans hrun)
    | fault f => simp [Host.Core.run, Sys2Proof.core, hstep] at hrun
    | refused r => simp [Host.Core.run, Sys2Proof.core, hstep] at hrun

theorem run_one (h : step s = .next t) : Host.Core.run Sys2Proof.core 1 s = .next t := run_succ h

theorem run_trans {n m : Nat} {u : State} (h : Host.Core.run Sys2Proof.core n s = .next t)
    (h' : Host.Core.run Sys2Proof.core m t = .next u) : Host.Core.run Sys2Proof.core (n + m) s = .next u :=
  (run_add h).trans h'

/-! ### Bytes without a header -/

/-- The bytes a header could still stand in: an open window counts as the 0xAA that opened it (10_state.md R23). -/
def windowed (w : Bool) (g : List Byte) : List Byte := if w = true then 0xAA#8 :: g else g

theorem windowed_slides (w : Bool) (b : Byte) (g : List Byte) : windowed (b = 0xAA#8) g <:+ windowed w (b :: g) := by
  have h1 : windowed (b = 0xAA#8) g <:+ b :: g := by
    by_cases hb : b = 0xAA#8
    · simp [windowed, hb]
    · simp [windowed, hb]
  have h2 : b :: g <:+ windowed w (b :: g) := by
    cases w <;> simp [windowed]
  exact h1.trans h2

/-- Bytes in which 0xAA is never directly followed by 0x55 are consumed, and only the window tells of them. -/
theorem garbage_passed {g : List Byte} (h : s.Inv) (hs : s.rxState = .awaitHeader)
    (hg : ¬ [0xAA#8, 0x55#8] <:+: windowed s.hdrAa g) (hstream : s.rxStream = g.map RxEvent.byte ++ rest)
    (hsched : s.schedule = List.replicate g.length .rxe ++ ts) :
    ∃ w tk, Host.Core.run Sys2Proof.core g.length s =
      .next { s with hdrAa := w, rxStream := rest, rxTaken := tk, schedule := ts } := by
  induction g generalizing s with
  | nil =>
    refine ⟨s.hdrAa, s.rxTaken, ?_⟩
    rw [show rest = s.rxStream from hstream.symm, show ts = s.schedule from hsched.symm]
    rfl
  | cons b g ih =>
    have hno : s.hdrAa = false ∨ b ≠ 0x55#8 := by
      by_contra hc
      simp only [not_or, Bool.not_eq_false, not_not] at hc
      obtain ⟨hw, rfl⟩ := hc
      refine hg (List.IsPrefix.isInfix ?_)
      simp [windowed, hw]
    have ht := h.taking (by simp [hs]) hstream hsched
    have hstep := step_taking ht (rxeStep_window hs hno)
    obtain ⟨w, tk, hrun⟩ := ih (stepKeepsInvariant _ _ h hstep) hs
      (fun hi => hg (hi.trans (windowed_slides s.hdrAa b g).isInfix)) rfl rfl
    exact ⟨w, tk, (run_succ hstep).trans hrun⟩

/-! ### A frame -/

/-- The header is found whatever the window held before (40_receiver.md R102). -/
theorem header_received (h : s.Inv) (hs : s.rxState = .awaitHeader)
    (hstream : s.rxStream = .byte 0xAA#8 :: .byte 0x55#8 :: es) (hsched : s.schedule = .rxe :: .rxe :: ts) :
    ∃ tk, Host.Core.run Sys2Proof.core 2 s =
      .next { s with rxState := .readLength, hdrAa := false, rxStream := es, rxTaken := tk, schedule := ts } := by
  have ht := h.taking (by simp [hs]) hstream hsched
  have hfirst := step_taking ht (rxeStep_window hs (.inr (by decide)))
  have ht' := (stepKeepsInvariant _ _ h hfirst).taking (by simp [State.taken, hs]) rfl rfl
  have hsecond := step_taking ht' (rxeStep_header hs rfl rfl)
  exact ⟨_, (run_succ hfirst).trans (run_succ hsecond)⟩

/-- The rest `Q` of the payload is stored behind what was taken of it, whatever its bytes are (40_receiver.md R104). -/
theorem payload_received {Q : List Byte} (h : s.Inv) (hs : s.rxState = if Q = [] then .readChecksum else .readPayload)
    (hleft : s.rxIdx.toNat + Q.length = s.rxLen.toNat + 1) (hstream : s.rxStream = Q.map RxEvent.byte ++ rest)
    (hsched : s.schedule = List.replicate Q.length .rxe ++ ts) :
    ∃ i tk, Host.Core.run Sys2Proof.core Q.length s =
      .next { s with
        rxState := .readChecksum
        rxIdx := i
        rxBuf := Memory.writeList s.rxBuf s.rxIdx.toNat Q
        rxStream := rest
        rxTaken := tk
        schedule := ts } := by
  induction Q generalizing s with
  | nil =>
    refine ⟨s.rxIdx, s.rxTaken, ?_⟩
    rw [show rest = s.rxStream from hstream.symm, show ts = s.schedule from hsched.symm,
      show RxState.readChecksum = s.rxState from hs.symm]
    rfl
  | cons b Q ih =>
    have hs' : s.rxState = .readPayload := hs
    have hstep := Receiver.payloadByte _ _ _ _ h (h.taking (by simp [hs']) hstream hsched) hs'
    have hlen := s.rxLen.isLt
    have hidx := Count.toNat_succ (c := s.rxIdx) (by omega)
    rw [List.length_cons] at hleft
    obtain ⟨i, tk, hrun⟩ := ih (stepKeepsInvariant _ _ h hstep)
      (if_congr (by rw [← List.length_eq_zero_iff]; omega) rfl rfl) (by simp only [State.taken, hidx]; omega) rfl rfl
    refine ⟨i, tk, (run_succ hstep).trans (hrun.trans ?_)⟩
    simp only [State.taken, hidx, Memory.writeList]

/-- A frame that fits the buffer is stored up to its last byte, which is the checksum of what is stored. -/
theorem frame_received_to_checksum (h : s.Inv) (hs : s.rxState = .awaitHeader) (hP : P.length ≤ 255)
    (hcap : P.length + 2 ≤ s.params.bufCap) (hstream : s.rxStream = (frame P).map RxEvent.byte ++ rest)
    (hsched : s.schedule = List.replicate (P.length + 4) .rxe ++ ts) :
    ∃ t, Host.Core.run Sys2Proof.core (P.length + 3) s = .next t ∧ t.Inv ∧
      State.taking t ts (.byte (cks (lengthByte P :: P))) rest ∧ t.rxState = .readChecksum ∧ t.rxLen = lengthByte P ∧
      Memory.readList t.rxBuf 1 t.rxLen.toNat = some P ∧ t.op = s.op ∧ t.params = s.params := by
  have hlen := lengthByte_toNat hP
  have hframe : s.rxStream = .byte 0xAA#8 :: .byte 0x55#8 :: .byte (lengthByte P) ::
      (P.map RxEvent.byte ++ .byte (cks (lengthByte P :: P)) :: rest) := by
    simp [hstream, frame]
  have hturns : s.schedule = .rxe :: .rxe :: .rxe :: (List.replicate P.length .rxe ++ .rxe :: ts) := by
    rw [hsched, List.replicate_succ, List.replicate_succ, List.replicate_succ, List.replicate_succ']
    simp
  obtain ⟨tk, hheader⟩ := header_received h hs hframe hturns
  have hi := h.run hheader
  obtain ⟨-, hlength, -⟩ := Receiver.lengthByte _ _ _ _ (hi.taking (by simp) rfl rfl) rfl
  have hstep := hlength (hlen ▸ hcap)
  have hi' := stepKeepsInvariant _ _ hi hstep
  have hempty : lengthByte P = 0x00#8 ↔ P = [] := by
    rw [← BitVec.toNat_inj, hlen, ← List.length_eq_zero_iff]
    rfl
  have hleft : (1 : Count).toNat + P.length = (lengthByte P).toNat + 1 := by
    rw [hlen]
    exact Nat.add_comm 1 P.length
  obtain ⟨i, tk', hpayload⟩ := payload_received hi' (if_congr hempty rfl rfl) hleft rfl rfl
  have hi'' := hi'.run hpayload
  have hrun := run_trans hheader (run_trans (run_one hstep) hpayload)
  rw [show 2 + (1 + P.length) = P.length + 3 by omega] at hrun
  refine ⟨_, hrun, hi'', hi''.taking (by simp) rfl rfl, rfl, rfl, ?_, rfl, rfl⟩
  exact (congrArg _ hlen).trans (Memory.readList_writeList _ 1 P)

/-- The frame that stands in `rx_buf` once its last byte is stored. -/
theorem readList_frame {m : Memory} {L : Byte} (c : Byte) (h0 : Memory.read m 0 = some L)
    (hP : Memory.readList m 1 P.length = some P) :
    Memory.readList (Memory.write m (P.length + 1) c) 0 (P.length + 2) = some (L :: P ++ [c]) := by
  obtain ⟨-, hbytes⟩ := (Memory.readList_eq_some _ _ _ _).mp hP
  refine (Memory.readList_eq_some _ _ _ _).mpr ⟨by simp, fun i hi => ?_⟩
  rw [Nat.zero_add]
  rcases i with _ | i
  · exact (Memory.read_write_below c (Nat.succ_pos _)).trans h0
  · by_cases hlast : i = P.length
    · simp [hlast]
    · have hlt : i < P.length := by simp at hi; omega
      have hb := hbytes i hlt
      rw [Nat.add_comm] at hb
      rw [Memory.read_write_below c (by omega), hb]
      simp [hlt]

/-- Settles O55: the garbage leaves the receiver in AWAIT_HEADER, where the frame behind it is received whole and matches. -/
theorem garbageThenFrameAccepted : Obligations.GarbageThenFrameAccepted := by
  intro s g P rest ts h hs hw ho hg hP hcap hstream hsched
  have hno : ¬ [0xAA#8, 0x55#8] <:+: windowed s.hdrAa g := by
    rintro ⟨pre, post, hi⟩
    rw [hw] at hi
    exact hg pre post hi.symm
  rw [List.map_append, List.append_assoc] at hstream
  rw [Nat.add_assoc, List.replicate_add, List.append_assoc] at hsched
  obtain ⟨w, tk, hgarbage⟩ := garbage_passed h hs hno hstream hsched
  obtain ⟨t, hframe, hi, ht, hts, hL, hbuf, hto, -⟩ :=
    frame_received_to_checksum (h.run hgarbage) hs hP hcap rfl rfl
  obtain ⟨u, hstep, hfail, hvalid, -, hbusy, -, -, -, -, -, hubuf, hrecv, -, -, -, -, -, hus, -⟩ :=
    checksumMatch _ _ _ _ _ hi ht hts hbuf (by rw [hL])
  obtain ⟨hcode, -⟩ := hrecv (hto.trans ho)
  obtain ⟨-, h0, -⟩ := hi.frameSoFar (.inr hts)
  have hlen := lengthByte_toNat hP
  refine ⟨u, ?_, hcode, hbusy, hvalid, hfail, ?_, hus⟩
  · rw [Nat.add_assoc]
    exact run_trans hgarbage (run_trans (n := P.length + 3) hframe (run_one hstep))
  · rw [hL, hlen] at hubuf hbuf
    rw [hubuf]
    exact readList_frame _ (hL ▸ h0) hbuf

end Sys2Proof.Machine
end

section
/-! The function recv(f, s) against the machine (spec 40_receiver.md R113). A receive over the reset values and one in the
machine take the same steps: `Shows` says how the machine's receive state is read off the function's, `StepAlike` that one
event keeps it so or ends both with one answer, and an induction over the events gives the whole receive. -/

namespace Sys2Proof.Machine

variable {r u : State} {L b : Byte} {m top base : Memory} {tk es : List RxEvent} {ts : List Turn} {e : RxEvent}
  {c : ResultCode} {n : Nat}

/-! ### A buffer over another -/

/-- `m` reads as `top` wherever `top` holds a byte, and as `base` elsewhere. -/
def Memory.over (m top base : Memory) : Prop :=
  ∀ i, Memory.read m i =
    match Memory.read top i with
    | some b => some b
    | none => Memory.read base i

/-- The bytes below `n` have all been written. -/
def Memory.filled (m : Memory) (n : Nat) : Prop := ∀ i, i < n → (Memory.read m i).isSome = true

theorem Memory.filled_zero (m : Memory) : Memory.filled m 0 := fun _ hi => absurd hi (Nat.not_lt_zero _)

theorem Memory.filled.write (h : Memory.filled m n) (b : Byte) : Memory.filled (Memory.write m n b) (n + 1) := by
  intro i hi
  rw [Memory.read_write]
  split
  · rfl
  · exact h i (by omega)

theorem Memory.filled.readList (h : Memory.filled m n) : ∃ bs, Memory.readList m 0 n = some bs :=
  Memory.readList_isSome fun i hi => Option.isSome_iff_exists.mp (h (0 + i) (by omega))

theorem Memory.over_nil (m : Memory) : Memory.over m [] m := fun _ => rfl

theorem Memory.over.write (h : Memory.over m top base) (i : Nat) (b : Byte) :
    Memory.over (Memory.write m i b) (Memory.write top i b) base := by
  intro j
  by_cases hj : j = i
  · simp [hj]
  · rw [Memory.read_write_other m b hj, Memory.read_write_other top b hj, h j]

/-- Where the upper buffer holds every byte, the two read the same list. -/
theorem Memory.over.readList (h : Memory.over m top base) (hf : Memory.filled top n) :
    Memory.readList m 0 n = Memory.readList top 0 n := by
  refine Memory.readList_congr fun i _ hi => ?_
  obtain ⟨b, hb⟩ := Option.isSome_iff_exists.mp (hf i (by omega))
  rw [h i, hb]

/-! ### The receive of the machine, as the function sees it -/

/-- `rx_len` in the machine: the function's `L` once a length byte is stored in its buffer, and an older frame's before. -/
def shownLen (top : Memory) (L older : Byte) : Byte :=
  match Memory.read top 0 with
  | some _ => L
  | none => older

theorem shownLen_of_filled (h : Memory.filled top n) (hn : 0 < n) (L older : Byte) : shownLen top L older = L := by
  obtain ⟨b, hb⟩ := Option.isSome_iff_exists.mp (h 0 hn)
  simp only [shownLen, hb]

/-- The machine in a RECV dispatched at `r`, where the function holds `u`: it has taken `tk` and is offered `es`. -/
def State.showing (r u : State) (L : Byte) (m : Memory) (tk es : List RxEvent) (ts : List Turn) : State :=
  { r with
    rxState := u.rxState
    hdrAa := u.hdrAa
    rxLen := L
    rxIdx := u.rxIdx
    rxBuf := m
    failCnt := u.failCnt
    rxValid := false
    busy := true
    op := .recv
    rxStream := es
    rxTaken := tk
    schedule := ts }

/-- What the function holds while the receive runs, with the machine's `rx_len` and `rx_buf`. -/
structure Shows (r u : State) (L : Byte) (m : Memory) : Prop where
  params : u.params = r.params
  op : u.op = .recv
  busy : u.busy = true
  rxValid : u.rxValid = false
  rxLen : L = shownLen u.rxBuf u.rxLen r.rxLen
  rxBuf : Memory.over m u.rxBuf r.rxBuf
  /-- What this receive has taken of the frame in progress stands in the function's buffer. -/
  stored : Memory.filled u.rxBuf u.rxIdx.toNat

/-- How a RECV dispatched at `r` leaves the machine in `t`, with the answer of R113. -/
structure State.Ends (r t : State) (c : ResultCode) (fr : Option (List Byte)) (f : Byte) : Prop where
  code : t.code = c
  busy : t.busy = false
  op : t.op = .recv
  failCnt : t.failCnt = f
  operands : State.sameOperands r t
  transmit : State.sameTransmit r t
  snap : t.snap = r.snap
  snapValid : t.snapValid = r.snapValid
  outcome :
    (c = .ok ∧ t.rxValid = true ∧ f = 0 ∧ ∃ bytes, fr = some bytes ∧
        Memory.readList t.rxBuf 0 (t.rxLen.toNat + 2) = some bytes) ∨
      (c = .cksumCap ∧ t.rxValid = false ∧ fr = none ∧ f.toNat = r.params.failCap) ∨
      (c = .rxIo ∧ t.rxValid = false ∧ fr = none) ∨ (c = .overrun ∧ t.rxValid = false ∧ fr = none)

/-- The frame of the answer, read off the state that ends the receive. -/
def answeredFrame (u : State) : Option (List Byte) := if u.rxValid = true then receivedFrame u else none

/-- The function and the machine take one event, whatever comes behind it: both go on alike, or both end alike. -/
def StepAlike (r u : State) (L : Byte) (m : Memory) (tk : List RxEvent) (e : RxEvent) : Prop :=
  ∃ u', rxeStep e u = .ok u' ∧
    ((∃ L' m', Shows r u' L' m' ∧ ∀ es ts,
        step (State.showing r u L m tk (e :: es) (.rxe :: ts)) = .next (State.showing r u' L' m' (tk ++ [e]) es ts)) ∨
      (u'.busy = false ∧ ∀ es ts, ∃ t, step (State.showing r u L m tk (e :: es) (.rxe :: ts)) = .next t ∧
        t.schedule = ts ∧ t.rxStream = es ∧ t.rxTaken = tk ++ [e] ∧ State.Ends r t u'.code (answeredFrame u') u'.failCnt))

theorem showing_taking : State.taking (State.showing r u L m tk (e :: es) (.rxe :: ts)) ts e es := ⟨rfl, rfl, rfl, rfl⟩

/-- The invariant does not depend on what is offered and scheduled. -/
theorem showing_inv (h : (State.showing r u L m tk es ts).Inv) (es' : List RxEvent) (ts' : List Turn) :
    (State.showing r u L m tk es' ts').Inv := { h with }

/-! ### The last byte of a frame, in a RECV -/

section
variable {s : State} {bytes : List Byte} (hs : s.rxState = .readChecksum) (h : s.rxIdx.toNat < s.params.bufCap)
  (hb : Memory.readList (Memory.write s.rxBuf s.rxIdx.toNat b) 0 (s.rxLen.toNat + 1) = some bytes)

include hs h hb

theorem rxeStep_match (hc : cks bytes = b) (ho : s.op = .recv) :
    rxeStep (.byte b) s = .ok (finish .ok (rxMatchWrites { s with rxBuf := Memory.write s.rxBuf s.rxIdx.toNat b })) := by
  rw [rxeStep_checksum hs h hb, if_pos hc, rxMatch_recv (by simp [ho])]

theorem rxeStep_mismatch_cap (hc : cks bytes ≠ b) (hcap : s.params.failCap ≤ s.failCnt.toNat + 1) :
    rxeStep (.byte b) s = .ok (finish .cksumCap { s with
      rxBuf := Memory.write s.rxBuf s.rxIdx.toNat b
      failCnt := BitVec.ofNat 8 s.params.failCap }) := by
  rw [rxeStep_checksum hs h hb, if_neg hc]
  exact congrArg _ (rxMismatch_cap hcap)

theorem rxeStep_mismatch_below (hc : cks bytes ≠ b) (hlow : s.failCnt.toNat + 1 < s.params.failCap) :
    rxeStep (.byte b) s = .ok { s with
      rxBuf := Memory.write s.rxBuf s.rxIdx.toNat b
      failCnt := s.failCnt + 1
      rxState := .awaitHeader
      hdrAa := false
      rxIdx := 0 } := by
  rw [rxeStep_checksum hs h hb, if_neg hc]
  exact congrArg _ (rxMismatch_below hlow)

end

/-! ### One event -/

theorem answeredFrame_of_invalid (hv : u.rxValid = false) : answeredFrame u = none := if_neg (by simp [hv])

/-- A receive that ends with an error answers no frame, and its RXVALID stays 0. -/
theorem State.Ends.of_error {fr : Option (List Byte)} (hfr : fr = none)
    (hc : (c = .cksumCap ∧ u.failCnt.toNat = r.params.failCap) ∨ c = .rxIo ∨ c = .overrun) :
    State.Ends r (finish c (State.showing r u L m tk es ts)) c fr u.failCnt := by
  refine ⟨rfl, rfl, rfl, rfl, ⟨rfl, rfl, rfl, rfl, rfl, rfl⟩, ⟨rfl, rfl, rfl⟩, rfl, rfl, ?_⟩
  rcases hc with ⟨hc, hf⟩ | hc | hc
  · exact .inr (.inl ⟨hc, rfl, hfr, hf⟩)
  · exact .inr (.inr (.inl ⟨hc, rfl, hfr⟩))
  · exact .inr (.inr (.inr ⟨hc, rfl, hfr⟩))

theorem Shows.step_err (h : Shows r u L m) : StepAlike r u L m tk .err :=
  ⟨_, rfl, .inr ⟨rfl, fun _ _ =>
    ⟨_, step_taking showing_taking rfl, rfl, rfl, rfl,
      State.Ends.of_error (answeredFrame_of_invalid h.rxValid) (.inr (.inl rfl))⟩⟩⟩

theorem Shows.step_awaitHeader (h : Shows r u L m) (hs : u.rxState = .awaitHeader) :
    StepAlike r u L m tk (.byte b) := by
  by_cases hfound : u.hdrAa = true ∧ b = 0x55#8
  · obtain ⟨hw, hb⟩ := hfound
    exact ⟨_, rxeStep_header hs hw hb,
      .inl ⟨L, m, { h with }, fun _ _ => step_taking showing_taking (rxeStep_header hs hw hb)⟩⟩
  · have hslide : u.hdrAa = false ∨ b ≠ 0x55#8 := by simpa [or_iff_not_imp_left] using hfound
    exact ⟨_, rxeStep_window hs hslide,
      .inl ⟨L, m, { h with }, fun _ _ => step_taking showing_taking (rxeStep_window hs hslide)⟩⟩

theorem Shows.step_readLength (h : Shows r u L m) (hs : u.rxState = .readLength) :
    StepAlike r u L m tk (.byte b) := by
  by_cases hover : r.params.bufCap < b.toNat + 2
  · exact ⟨_, rxeStep_overrun hs (h.params ▸ hover), .inr ⟨rfl, fun _ _ =>
      ⟨_, step_taking showing_taking (rxeStep_overrun hs hover), rfl, rfl, rfl,
        State.Ends.of_error (answeredFrame_of_invalid h.rxValid) (.inr (.inr rfl))⟩⟩⟩
  · have hfit : b.toNat + 2 ≤ r.params.bufCap := Nat.le_of_not_lt hover
    have hone : Memory.filled (Memory.write u.rxBuf 0 b) 1 := (Memory.filled_zero u.rxBuf).write b
    exact ⟨_, rxeStep_length hs (h.params ▸ hfit), .inl ⟨b, Memory.write m 0 b,
      { h with rxLen := (shownLen_of_filled hone Nat.one_pos _ _).symm, rxBuf := h.rxBuf.write 0 b, stored := hone },
      fun _ _ => step_taking showing_taking (rxeStep_length hs hfit)⟩⟩

/-- Within a frame the machine's `rx_len` is the function's. -/
theorem Shows.rxLen_inFrame (h : Shows r u L m) (hi : 0 < u.rxIdx.toNat) : L = u.rxLen :=
  h.rxLen.trans (shownLen_of_filled h.stored hi _ _)

theorem Shows.step_readPayload (h : Shows r u L m) (hinv : (State.showing r u L m tk es ts).Inv)
    (hs : u.rxState = .readPayload) : StepAlike r u L m tk (.byte b) := by
  have hi : 0 < u.rxIdx.toNat := (hinv.idxInPayload hs).1
  have hrange : u.rxIdx.toNat ≤ 257 := hinv.rxIdxRange
  have hlt : u.rxIdx.toNat < r.params.bufCap := hinv.rxIdx_lt (.inl hs)
  obtain rfl := h.rxLen_inFrame hi
  have hnext := Count.toNat_succ (c := u.rxIdx) (by omega)
  have hf := h.stored.write b
  refine ⟨_, rxeStep_payload hs (h.params ▸ hlt), .inl ⟨u.rxLen, Memory.write m u.rxIdx.toNat b,
    { h with
      rxLen := (shownLen_of_filled hf (Nat.succ_pos _) _ _).symm
      rxBuf := h.rxBuf.write _ b
      stored := ?_ },
    fun _ _ => step_taking showing_taking (rxeStep_payload hs hlt)⟩⟩
  rw [hnext]
  exact hf

/-- The byte that ends a frame is compared with the same checksum in both. -/
theorem Shows.step_readChecksum (h : Shows r u L m) (hinv : (State.showing r u L m tk es ts).Inv)
    (hs : u.rxState = .readChecksum) : StepAlike r u L m tk (.byte b) := by
  have hidx : u.rxIdx.toNat = L.toNat + 1 := hinv.idxAtChecksum hs
  have hlt : u.rxIdx.toNat < r.params.bufCap := hinv.rxIdx_lt (.inr hs)
  obtain rfl := h.rxLen_inFrame (by omega)
  have hf := h.stored.write b
  have hover := h.rxBuf.write u.rxIdx.toNat b
  obtain ⟨P, -, -, hbytes⟩ := hinv.payload_at_checksum hs b
  have hbytes' := (hover.readList (n := u.rxLen.toNat + 1) fun i hi => hf i (by omega)).symm.trans hbytes
  have hlt' : u.rxIdx.toNat < u.params.bufCap := h.params ▸ hlt
  by_cases hc : cks (u.rxLen :: P) = b
  · refine ⟨_, rxeStep_match hs hlt' hbytes' hc h.op, .inr ⟨rfl, fun _ _ =>
      ⟨_, step_taking showing_taking (rxeStep_match hs hlt hbytes hc rfl), rfl, rfl, rfl, ?_⟩⟩⟩
    have hframe : Memory.filled _ (u.rxLen.toNat + 2) := fun i hi => hf i (by omega)
    obtain ⟨bs, hbs⟩ := hframe.readList
    exact ⟨rfl, rfl, rfl, rfl, ⟨rfl, rfl, rfl, rfl, rfl, rfl⟩, ⟨rfl, rfl, rfl⟩, rfl, rfl,
      .inl ⟨rfl, rfl, rfl, bs, hbs, (hover.readList hframe).trans hbs⟩⟩
  · by_cases hcap : r.params.failCap ≤ u.failCnt.toNat + 1
    · obtain ⟨-, hmax, -⟩ := hinv.params
      have hcnt : (BitVec.ofNat 8 r.params.failCap).toNat = r.params.failCap := by
        rw [BitVec.toNat_ofNat]
        exact Nat.mod_eq_of_lt (Nat.lt_succ_of_le hmax)
      have hu := rxeStep_mismatch_cap hs hlt' hbytes' hc (h.params ▸ hcap)
      rw [h.params] at hu
      exact ⟨_, hu, .inr ⟨rfl, fun _ _ =>
        ⟨_, step_taking showing_taking (rxeStep_mismatch_cap hs hlt hbytes hc hcap), rfl, rfl, rfl,
          State.Ends.of_error (u := { u with failCnt := BitVec.ofNat 8 r.params.failCap })
            (answeredFrame_of_invalid h.rxValid) (.inl ⟨rfl, hcnt⟩)⟩⟩⟩
    · have hlow : u.failCnt.toNat + 1 < r.params.failCap := Nat.lt_of_not_le hcap
      exact ⟨_, rxeStep_mismatch_below hs hlt' hbytes' hc (h.params ▸ hlow), .inl
        ⟨u.rxLen, Memory.write m u.rxIdx.toNat b,
          { h with
            rxLen := (shownLen_of_filled hf (Nat.succ_pos _) _ _).symm
            rxBuf := hover
            stored := Memory.filled_zero _ },
          fun _ _ => step_taking showing_taking (rxeStep_mismatch_below hs hlt hbytes hc hlow)⟩⟩

/-- Every event, in every state of the receiver. -/
theorem Shows.stepAlike (h : Shows r u L m) (hinv : (State.showing r u L m tk es ts).Inv) (e : RxEvent) :
    StepAlike r u L m tk e := by
  cases e with
  | err => exact h.step_err
  | byte b =>
    cases hs : u.rxState with
    | idle => exact absurd hs (hinv.receiving.mpr ⟨rfl, rfl⟩)
    | awaitHeader => exact h.step_awaitHeader hs
    | readLength => exact h.step_readLength hs
    | readPayload => exact h.step_readPayload hinv hs
    | readChecksum => exact h.step_readChecksum hinv hs

/-! ### Every event -/

theorem recvFrom_cons {u' : State} {k : Nat} (h : rxeStep e u = .ok u') :
    recvFrom u k (e :: es) =
      if u'.busy = true then recvFrom u' (k + 1) es else .done u'.code (k + 1) (answeredFrame u') u'.failCnt := by
  rw [recvFrom, h, answeredFrame]

/-- What the answer of recv over the events `es` says of the machine that has taken `tk`, with enough turns of the RXE. -/
def RecvResult.Agrees (r u : State) (L : Byte) (m : Memory) (tk es : List RxEvent) (k : Nat) : RecvResult → Prop
  | .done c n fr f => ∃ j, n = k + j ∧ j ≤ es.length ∧ ∀ ts, ∃ t,
      Host.Core.run Sys2Proof.core j (State.showing r u L m tk es (List.replicate j .rxe ++ ts)) = .next t ∧
        t.schedule = ts ∧ t.rxStream = es.drop j ∧ t.rxTaken = tk ++ es.take j ∧ State.Ends r t c fr f
  | .pending u' => ∃ L' m', Shows r u' L' m' ∧ ∀ ts,
      Host.Core.run Sys2Proof.core es.length (State.showing r u L m tk es (List.replicate es.length .rxe ++ ts)) =
        .next (State.showing r u' L' m' (tk ++ es) [] ts)
  | .stopped _ => False

/-- The first event of a receive that goes on, put in front of what the rest of it says. -/
theorem RecvResult.Agrees.cons {u' : State} {L' : Byte} {m' : Memory} {k : Nat} {x : RecvResult}
    (hstep : ∀ es ts, step (State.showing r u L m tk (e :: es) (.rxe :: ts)) =
      .next (State.showing r u' L' m' (tk ++ [e]) es ts))
    (h : x.Agrees r u' L' m' (tk ++ [e]) es (k + 1)) : x.Agrees r u L m tk (e :: es) k := by
  cases x with
  | done c n fr f =>
    obtain ⟨j, rfl, hj, hrun⟩ := h
    refine ⟨j + 1, by omega, Nat.succ_le_succ hj, fun ts => ?_⟩
    obtain ⟨t, ht, hsched, hstream, htaken, hends⟩ := hrun ts
    exact ⟨t, (run_succ (hstep es _)).trans ht, hsched, hstream, by rw [htaken, List.append_assoc]; rfl, hends⟩
  | pending v =>
    obtain ⟨L'', m'', hshows, hrun⟩ := h
    refine ⟨L'', m'', hshows, fun ts => (run_succ (hstep es _)).trans ((hrun ts).trans ?_)⟩
    rw [List.append_assoc]
    rfl
  | stopped f => exact h

theorem recvFrom_agrees {k : Nat} (h : Shows r u L m) (hinv : (State.showing r u L m tk es ts).Inv) :
    (recvFrom u k es).Agrees r u L m tk es k := by
  induction es generalizing u L m tk ts k with
  | nil => exact ⟨L, m, h, fun ts => by rw [List.append_nil]; rfl⟩
  | cons e es ih =>
    obtain ⟨u', hx, ⟨L', m', h', hstep⟩ | ⟨hb, hend⟩⟩ := h.stepAlike hinv e
    · rw [recvFrom_cons hx, if_pos h'.busy]
      have hinv' := stepKeepsInvariant _ _ (showing_inv hinv _ _) (hstep es [])
      exact (ih h' hinv').cons hstep
    · rw [recvFrom_cons hx, if_neg (by simp [hb])]
      refine ⟨1, rfl, by simp, fun ts => ?_⟩
      obtain ⟨t, ht, hsched, hstream, htaken, hends⟩ := hend es ts
      exact ⟨t, run_one ht, hsched, hstream, htaken, hends⟩

/-! ### The dispatch -/

/-- What recv starts from, with the parameters and the count of `r`. -/
def recvStart (r : State) : State := startReceive .recv { State.resetWith r.params with failCnt := r.failCnt }

/-- The function starts where the dispatch puts the machine, which has the older bytes of its buffer. -/
theorem shows_start (r : State) : Shows r (recvStart r) r.rxLen r.rxBuf :=
  { params := rfl
    op := rfl
    busy := rfl
    rxValid := rfl
    rxLen := rfl
    rxBuf := Memory.over_nil _
    stored := Memory.filled_zero _ }

theorem recv_agrees (h : r.Inv) :
    (recv r.params r.failCnt r.rxStream).Agrees r (recvStart r) r.rxLen r.rxBuf r.rxTaken r.rxStream 0 := by
  have hstart : (startReceive .recv r).Inv := startReceive_inv h rfl
  exact recvFrom_agrees (ts := r.schedule) (shows_start r) hstart

/-- The CMD write that dispatches the RECV. -/
theorem step_recv (hb : r.busy = false) (hs : r.schedule = .host (encode .recv) :: ts) :
    step r = .next (State.showing r (recvStart r) r.rxLen r.rxBuf r.rxTaken r.rxStream ts) := by
  rw [step_host_instr hs rfl]
  exact unlessBusy_idle hb

/-- Settles O58: the dispatch, and then `recv_agrees` read for each answer. -/
theorem recvFunctionAgrees : Obligations.RecvFunctionAgrees := by
  intro r h hb
  have hagrees := recv_agrees h
  refine ⟨fun c k fr f' hr => ?_, fun u hr ts hs => ?_, fun x hr => ?_⟩
  · rw [hr] at hagrees
    obtain ⟨j, hk, hj, hrun⟩ := hagrees
    obtain rfl : k = j := by omega
    refine ⟨hj, fun ts hs => ?_⟩
    obtain ⟨t, ht, hsched, hstream, htaken, hends⟩ := hrun ts
    exact ⟨t, (run_succ (step_recv hb hs)).trans ht, hends.code, hends.busy, hends.op, hends.failCnt, hsched, hstream,
      htaken, hends.operands, hends.transmit, hends.snap, hends.snapValid, hends.outcome⟩
  · rw [hr] at hagrees
    obtain ⟨L, m, hshows, hrun⟩ := hagrees
    exact ⟨_, (run_succ (step_recv hb hs)).trans (hrun ts), rfl, rfl, rfl, rfl, rfl, rfl, rfl, rfl, rfl, rfl,
      hshows.rxLen, rfl, ⟨rfl, rfl, rfl, rfl, rfl, rfl⟩, ⟨rfl, rfl, rfl⟩, rfl, rfl, hshows.rxBuf⟩
  · rw [hr] at hagrees
    exact hagrees

end Sys2Proof.Machine
end

section
/-! ENC_RAW (spec 41_encoder.md R135): its payload is `TXPAY[0 .. n-1]`, n = `ARG0[7:0]`, and it stops exactly where one of
those bytes is unwritten. -/

namespace Sys2Proof.Machine

variable {s : State} {P : List Byte}

/-- A range of a buffer cannot be read exactly when one of its bytes was never written. -/
theorem Memory.readList_eq_none {m : Memory} {n : Nat} :
    Memory.readList m 0 n = none ↔ ∃ i, i < n ∧ Memory.read m i = none := by
  constructor
  · intro hnone
    by_contra! hall
    obtain ⟨bs, hbs⟩ := Memory.readList_isSome (m := m) (a := 0) (n := n) fun i hi => by
      rw [Nat.zero_add]
      exact Option.ne_none_iff_exists'.mp (hall i hi)
    rw [hbs] at hnone
    cases hnone
  · rintro ⟨i, hi, hread⟩
    exact Memory.readList_none hi (by rwa [Nat.zero_add])

theorem rawLength_eq (s : State) : rawLength s = s.arg0.toNat % 256 := by
  simp [rawLength, lo8]

/-- The length byte of the frame is the operand byte itself. -/
theorem lengthByte_rawPayload (hP : rawPayload s = some P) : lengthByte P = lo8 s.arg0 := by
  obtain ⟨hlen, -⟩ := (Memory.readList_eq_some _ _ _ _).mp hP
  rw [lengthByte, hlen, rawLength, BitVec.ofNat_toNat, BitVec.setWidth_eq]

theorem rawCommand_eq_error : rawCommand s = .error .txpayUnspecified ↔ rawPayload s = none := by
  unfold rawCommand
  cases rawPayload s <;> simp

/-- Settles O23: the frame of the payload that is read, behind its own length. -/
theorem encRawComposes : Obligations.EncRawComposes := by
  intro s P hb hP
  rw [← rawLength_eq] at hP ⊢
  obtain ⟨hlen, -⟩ := (Memory.readList_eq_some _ _ _ _).mp hP
  refine (Encodes.raw P hP).composes hb (congrArg (· + 4) hlen) ?_
  rw [← cks_eq_foldl, lengthByte_rawPayload hP, lo8]

/-- Settles O24: the dispatch stops exactly where the payload cannot be read. -/
theorem encRawStopsOnUnwritten : Obligations.EncRawStopsOnUnwritten := by
  intro s hb
  have hexec : exec .encRaw s = outcomeOf (rawCommand s) := unlessBusy_idle hb
  rw [hexec, outcomeOf_eq_fault, rawCommand_eq_error, rawPayload, rawLength_eq, Memory.readList_eq_none]

end Sys2Proof.Machine
end

section
/-! The transmit engine (spec 41_encoder.md R131, R133, R134): one lemma per answer of the ENV, what a turn leaves alone, and
the run in which every byte is accepted. -/

namespace Sys2Proof.Machine

variable {s t : State} {p : TxPins} {ts : List Turn} {b : Byte}

/-! ### One step -/

theorem step_txe_enabled (hs : s.schedule = .txe p :: ts) (hb : s.busy = true) (ho : s.op.isEncode = true) :
    step s = outcomeOf (txeStep p (State.withSchedule ts s)) :=
  (step_txe hs).trans (if_pos (txValid_iff.mpr ⟨hb, ho⟩))

theorem txeStep_err (he : p.txErr = true) : txeStep p s = .ok (finish .txIo s) := if_pos he

theorem txeStep_accept (he : p.txErr = false) (hr : p.txReady = true) (hread : Memory.read s.txf s.txIdx.toNat = some b) :
    txeStep p s =
      if s.txIdx + 1 = s.txN then .ok (finish .ok { s with wire := s.wire ++ [b], txIdx := s.txIdx + 1 })
      else .ok { s with wire := s.wire ++ [b], txIdx := s.txIdx + 1 } := by
  have hbyte : txByte s = some b := hread
  simp only [txeStep, he, hr, txAccept, hbyte, Bool.false_eq_true, if_false, if_true]

/-- Settles O26: the engine's step on each answer. -/
theorem transmitStep : Obligations.TransmitStep := by
  intro s p ts b hs hb ho hread
  rw [step_txe_enabled hs hb ho]
  refine ⟨fun he => by rw [txeStep_err he]; rfl, fun he hr => ?_⟩
  rw [txeStep_accept (s := State.withSchedule ts s) he hr hread]
  exact ⟨fun hlast => congrArg outcomeOf (if_pos hlast), fun hmore => congrArg outcomeOf (if_neg hmore)⟩

/-! ### What sending leaves alone -/

/-- While an encode runs the receiver is IDLE (10_state.md R22), so its end, which writes IDLE, changes nothing there. -/
theorem State.Inv.rxState_of_encoding (h : s.Inv) (ho : s.op.isEncode = true) : s.rxState = .idle := by
  by_contra hs
  obtain ⟨-, hrecv⟩ := h.receiving.mp hs
  rw [OpCode.isReceive_eq_false_of_isEncode ho] at hrecv
  cases hrecv

theorem finish_sameReceive (c : ResultCode) (hs : s.rxState = .idle) : State.sameReceive s (finish c s) :=
  ⟨hs.symm, rfl, rfl, rfl, rfl, rfl, rfl, rfl, rfl, rfl⟩

theorem exec_encode_sameReceive {i : Instr}
    (hi : i ∈ [Instr.encRaw, .encDrive, .encPidDefault, .encPidUser, .encSound, .encReqinfo])
    (h : exec i s = .next t) : State.sameReceive s t := by
  rcases exec_cases h with ⟨-, rfl⟩ | ⟨-, ⟨rfl, -⟩ | ⟨rfl, -⟩ | ⟨rfl, -⟩ | ⟨o, P, -, rfl⟩ | ⟨hill, -⟩⟩
  · exact sameReceive_refl _
  · simp at hi
  · simp at hi
  · simp at hi
  · exact sameReceive_refl _
  · rcases hill with rfl | ⟨c, rfl⟩ | ⟨c, rfl⟩ <;> simp at hi

theorem txeTurn_sameReceive (h : s.Inv) (hturn : txeTurn p s = .next t) : State.sameReceive s t := by
  rcases txeTurn_cases hturn with ⟨-, rfl⟩ | ⟨hv, hstep⟩
  · exact sameReceive_refl _
  · have hidle := h.rxState_of_encoding (txValid_iff.mp hv).2
    rcases txeStep_cases hstep with ⟨-, rfl⟩ | ⟨-, -, rfl⟩ | ⟨-, -, b, -, ⟨-, rfl⟩ | ⟨-, rfl⟩⟩
    · exact finish_sameReceive .txIo hidle
    · exact sameReceive_refl _
    · exact finish_sameReceive .ok hidle
    · exact sameReceive_refl _

/-- Settles O25: the dispatches, the turns of the TXE, and the RXE, which is not enabled while an encode runs. -/
theorem sendingKeepsReceiveState : Obligations.SendingKeepsReceiveState := by
  intro s t h
  refine ⟨fun i hi hexec => exec_encode_sameReceive hi hexec, fun p ts hs hstep => ?_, fun _ ho => ?_⟩
  · rw [step_txe hs] at hstep
    have hkeep : State.sameReceive (State.withSchedule ts s) t := txeTurn_sameReceive (h.withSchedule ts) hstep
    exact hkeep
  · have hrecv := OpCode.isReceive_eq_false_of_isEncode ho
    have hoff : ¬ (s.busy = true ∧ s.op.isReceive = true) := by simp [hrecv]
    exact ⟨by simp [rxReady, hrecv], fun ts hs => (step_rxe hs).trans (rxeTurn_disabled hoff)⟩

/-! ### A whole frame -/

/-- The encode ended with OK, with `bs` sent since `s` and every byte of the frame handed over. -/
def State.sent (s : State) (bs : List Byte) (ts : List Turn) : State :=
  { s with schedule := ts, wire := s.wire ++ bs, txIdx := s.txN, code := .ok, busy := false, rxState := .idle }

/-- What is left to send begins with the byte that is offered. -/
theorem unsent_cons {bs : List Byte} (hf : Memory.readList s.txf 0 s.txN.toNat = some bs)
    (hlt : s.txIdx.toNat < s.txN.toNat) :
    (s.txIdx + 1).toNat = s.txIdx.toNat + 1 ∧ ∃ b, Memory.read s.txf s.txIdx.toNat = some b ∧
      bs.drop s.txIdx.toNat = b :: bs.drop (s.txIdx.toNat + 1) := by
  obtain ⟨hlen, -⟩ := (Memory.readList_eq_some _ _ _ _).mp hf
  have hbs : s.txIdx.toNat < bs.length := hlen ▸ hlt
  exact ⟨Count.toNat_succ (by omega), _, Memory.read_of_readList hf hbs, List.drop_eq_getElem_cons hbs⟩

/-- The bytes left in txf go out in order, one accepted step each, and the last ends the encode. -/
theorem run_accepted {n : Nat} {bs : List Byte} (hb : s.busy = true) (ho : s.op.isEncode = true)
    (hf : Memory.readList s.txf 0 s.txN.toNat = some bs) (hn : s.txIdx.toNat + (n + 1) = s.txN.toNat)
    (hs : s.schedule = List.replicate (n + 1) (.txe ⟨true, false⟩) ++ ts) :
    Host.Core.run Sys2Proof.core (n + 1) s = .next (State.sent s (bs.drop s.txIdx.toNat) ts) := by
  induction n generalizing s with
  | zero =>
    obtain ⟨hidx, b, hread, hdrop⟩ := unsent_cons hf (by omega)
    obtain ⟨-, haccept⟩ := transmitStep s _ _ b hs hb ho hread
    have heq : s.txIdx + 1 = s.txN := BitVec.eq_of_toNat_eq (by omega)
    obtain ⟨hlen, -⟩ := (Memory.readList_eq_some _ _ _ _).mp hf
    have hend : bs.drop (s.txIdx.toNat + 1) = [] := List.drop_eq_nil_of_le (by omega)
    obtain ⟨hlast, -⟩ := haccept rfl rfl
    have hstep := hlast heq
    rw [heq] at hstep
    rw [hdrop, hend]
    exact run_one hstep
  | succ n ih =>
    obtain ⟨hidx, b, hread, hdrop⟩ := unsent_cons hf (by omega)
    obtain ⟨-, haccept⟩ := transmitStep s _ _ b hs hb ho hread
    have hne : s.txIdx + 1 ≠ s.txN := fun heq => by
      rw [heq] at hidx
      omega
    obtain ⟨-, hmore⟩ := haccept rfl rfl
    have hleft : (s.txIdx + 1).toNat + (n + 1) = s.txN.toNat := by omega
    refine (run_succ (hmore hne)).trans ((ih (by exact hb) (by exact ho) (by exact hf) (by exact hleft) rfl).trans ?_)
    simp only [State.sent, hidx, hdrop, List.append_assoc, List.singleton_append]

/-- Settles O56: the invariant gives the frame in txf and what of it the wire holds; the run adds the rest. -/
theorem transmissionCompletes : Obligations.TransmissionCompletes := by
  intro s n ts h hb ho hn hs
  obtain ⟨P, before, -, hlen, hlt, hframe, hwire⟩ := h.sending hb ho
  rw [← hlen] at hframe
  obtain ⟨k, rfl⟩ : ∃ k, n = k + 1 := Nat.exists_eq_succ_of_ne_zero (by omega)
  have hrun := run_accepted hb ho hframe (by omega) hs
  refine ⟨_, P, before, hframe, hrun, rfl, rfl, rfl, hwire, ?_, rfl⟩
  rw [State.sent, hwire, List.append_assoc, List.take_append_drop]

end Sys2Proof.Machine
end

section
/-! What the encoder sends, the receiver accepts (spec 41_encoder.md R142, R143). -/

namespace Sys2Proof.Machine

variable {s : State} {o : OpCode} {P : List Byte} {ts : List Turn}

/-- Settles O54: the frame is received up to its last byte, which is the checksum of what is stored. -/
theorem encodedFramesAccepted : Obligations.EncodedFramesAccepted := by
  intro s P rest ts h hs hP hcap hstream hsched
  have hlen := lengthByte_toNat hP
  obtain ⟨t, hframe, hi, ht, hts, hL, hbuf, hop, hparams⟩ := frame_received_to_checksum h hs hP hcap hstream hsched
  obtain ⟨-, h0, -⟩ := hi.frameSoFar (.inr hts)
  obtain ⟨u, hstep, hfail, hvalid, hsize, hbusy, -, -, -, -, -, hubuf, hrecv, hshort, hok, -, -, -, hustream, -, -, -,
    husched⟩ := checksumMatch _ _ _ _ _ hi ht hts hbuf (by rw [hL])
  rw [hL, hlen] at hbuf hubuf
  rw [hL, hlen, hparams] at hsize hshort hok
  rw [hop] at hrecv hshort hok
  refine ⟨u, run_trans (n := P.length + 3) hframe (run_one hstep), hbusy, hvalid, hfail, hsize, ?_, hustream, husched,
    fun ho => (hrecv ho).1, fun ho => ?_⟩
  · rw [hubuf]
    exact readList_frame _ (hL ▸ h0) hbuf
  · cases hf : layoutFits s.params.layout P.length with
    | true => exact (hok ho hf).1
    | false => exact (hshort ho hf).1

/-- With every byte accepted, an encode that was dispatched sends its whole frame and ends with OK. -/
theorem run_startTransmit (ho : o.isEncode = true) (hP : P.length ≤ 255)
    (hs : s.schedule = List.replicate (P.length + 4) (.txe ⟨true, false⟩) ++ ts) :
    Host.Core.run Sys2Proof.core (P.length + 4) (startTransmit o P s) =
      .next (State.sent (startTransmit o P s) (frame P) ts) := by
  obtain ⟨-, -, htxN, -⟩ := startTransmit_startsSending o s hP
  have hframe := startTransmit_frame o P s
  rw [← htxN] at hframe
  exact run_accepted (s := startTransmit o P s) rfl ho hframe ((Nat.zero_add _).trans htxN.symm) hs

theorem drivePayload_length (s : State) : (drivePayload s).length = 6 := rfl

/-- A 16-bit field is put together again from its two bytes (20_memory.md R60). -/
theorem hi8_append_lo8 (v : Half) : hi8 v ++ lo8 v = v :=
  BitVec.extractLsb'_append_extractLsb' (w := 8) (len := 8)

/-- Settles O57: the dispatch and the run of the sender, then the dispatch of the RECV, which accepts the frame. -/
theorem driveRoundTrip : Obligations.DriveRoundTrip := by
  intro s ts h hb hs
  have hsend := (step_host_instr hs rfl).trans (Encodes.drive.exec_idle hb)
  have hsent := (run_succ hsend).trans (run_startTransmit rfl (by simp [drivePayload_length]) rfl)
  refine ⟨_, frame (drivePayload s), hsent, rfl, rfl, rfl, fun r rest us hr hrb hstream hrs => ?_⟩
  have hrecv : step r = .next (startReceive .recv _) := (step_host_instr hrs rfl).trans (unlessBusy_idle hrb)
  have hi := stepKeepsInvariant _ _ hr hrecv
  obtain ⟨-, -, hcap, -⟩ := hr.params
  obtain ⟨u, hrun, hbusy, -, -, -, hbuf, hrest, -, hcode, -⟩ :=
    encodedFramesAccepted _ (drivePayload s) rest us hi rfl (by simp [drivePayload_length])
      (Nat.le_trans (by simp [drivePayload_length]) hcap) hstream rfl
  exact ⟨u, _, _, _, _, _, (run_succ hrecv).trans hrun, hcode rfl, hbusy, hrest, hbuf, hi8_append_lo8 s.arg0,
    hi8_append_lo8 s.arg1⟩

end Sys2Proof.Machine
end

section
/-! What a descriptor reads from a payload and when it fits (spec 42_sensor_codec.md R160, R161), and that the decode
covers every field of the layout (R162, R163). -/

namespace Sys2Proof.Machine

variable {s : State} {P : List Byte} {o L : Nat} {d : Descriptor} {l : SensorLayout}

/-! ### Descriptors -/

theorem descFits_iff : descFits d L = true ↔ descOffset d + descWidth d ≤ L := decide_eq_true_iff

/-- Settles O14: each form by its offset and width. -/
theorem descriptorFit : Obligations.DescriptorFit := fun _ _ _ =>
  ⟨⟨rfl, rfl, rfl, rfl, rfl, rfl, rfl⟩, descFits_iff, descFits_iff, descFits_iff, descFits_iff, descFits_iff,
    descFits_iff, descFits_iff.mpr (Nat.zero_le _)⟩

theorem payloadByte_of_lt (h : o < P.length) : payloadByte P o = P[o] := List.getD_eq_getElem _ _ h

theorem toNat_append_byte {n : Nat} (x : BitVec n) (b : Byte) : (x ++ b).toNat = 256 * x.toNat + b.toNat := by
  rw [BitVec.toNat_append, ← Nat.shiftLeft_add_eq_or_of_lt b.isLt, Nat.shiftLeft_eq, Nat.mul_comm]

/-- Little-endian (20_memory.md R60): the byte at the offset is the low one. -/
theorem payloadHalf_toNat (h : o + 1 < P.length) :
    (payloadHalf P o).toNat = P[o].toNat + 256 * P[o + 1].toNat := by
  rw [payloadHalf, payloadByte_of_lt h, payloadByte_of_lt (by omega), toNat_append_byte, Nat.add_comm]

theorem payloadWord_toNat (h : o + 3 < P.length) :
    (payloadWord P o).toNat =
      P[o].toNat + 2 ^ 8 * P[o + 1].toNat + 2 ^ 16 * P[o + 2].toNat + 2 ^ 24 * P[o + 3].toNat := by
  rw [payloadWord, toNat_append_byte, toNat_append_byte, toNat_append_byte, payloadByte_of_lt h,
    payloadByte_of_lt (o := o + 2) (by omega), payloadByte_of_lt (o := o + 1) (by omega), payloadByte_of_lt (by omega)]
  omega

/-- A 16-bit value read as signed, in two's complement. -/
theorem half_toInt (v : Half) :
    v.toInt = if v.toNat < 32768 then (v.toNat : Int) else (v.toNat : Int) - 65536 := by
  rw [BitVec.toInt_eq_toNat_cond]
  split <;> split <;> omega

/-- The payload stands in `rx_buf` behind the length byte. -/
theorem framePayload_read (h : framePayload s = some P) (ho : o < P.length) :
    Memory.read s.rxBuf (1 + o) = some P[o] := by
  obtain ⟨L, -, hP⟩ := framePayload_eq_some.mp h
  exact ((Memory.readList_eq_some _ _ _ _).mp hP).2 o ho

/-- Settles O13: each form extends the byte, half or word at its offset to 32 bits, with zeros or with the sign. -/
theorem descriptorValues : Obligations.DescriptorValues := by
  intro P o
  refine ⟨fun k h => ?_, fun h => ?_, fun h => ?_, fun h => ?_, fun h => ?_, fun h => ?_, rfl,
    fun s hs h => framePayload_read hs h⟩
  · rw [descValue, payloadByte_of_lt h]
    cases P[o].getLsbD k.val <;> rfl
  · rw [descValue, payloadByte_of_lt h, BitVec.toNat_setWidth_of_le (by decide)]
  · rw [descValue, payloadByte_of_lt h, BitVec.toInt_signExtend_of_le (by decide)]
  · rw [descValue, BitVec.toNat_setWidth_of_le (by decide), payloadHalf_toNat h]
  · rw [descValue, BitVec.toInt_signExtend_of_le (by decide), half_toInt, payloadHalf_toNat h]
  · exact payloadWord_toNat h

/-! ### Every field -/

theorem mem_allFields (f : SnapField) : f ∈ allFields := by
  cases f with
  | extra i => revert i; decide
  | _ => decide

theorem layoutFits_iff : layoutFits l L = true ↔ ∀ f : SnapField, descFits (layoutDesc l f) L = true := by
  simp only [layoutFits, List.all_eq_true, mem_allFields, forall_const]

/-- A flag loses nothing of its descriptor's value, which is one bit. -/
theorem ofBool_flagValue (d : FlagDescriptor) (P : List Byte) :
    (BitVec.ofBool (flagValue d P)).setWidth 32 = descValue (flagDesc d) P := by
  cases d with
  | bit o k =>
    simp only [flagValue, flagDesc, descValue]
    cases (payloadByte P o).getLsbD k.val <;> rfl
  | absent => simp [flagValue, flagDesc, descValue]

/-- An encoder field loses nothing of its descriptor's value, which has 16 bits. -/
theorem setWidth_countValue (d : CountDescriptor) (P : List Byte) :
    (countValue d P).setWidth 32 = descValue (countDesc d) P := by
  cases d with
  | u16 o =>
    have hback : ((payloadHalf P o).setWidth 32).setWidth 16 = payloadHalf P o := by
      rw [BitVec.setWidth_setWidth_of_le _ (by decide), BitVec.setWidth_eq]
    exact congrArg (BitVec.setWidth 32) hback
  | absent => simp [countValue, countDesc, descValue]

theorem extraValues_getElem (ds : Vector Descriptor 16) (P : List Byte) (i : Fin 16) :
    (extraValues ds P)[i] = descValue ds[i] P := by
  simp [extraValues]

/-- Settles O15: the list the decode tests holds every field, and no field is narrower than its descriptor's value. -/
theorem snapshotTakesEveryField : Obligations.SnapshotTakesEveryField := fun l P _ =>
  ⟨layoutFits_iff, ofBool_flagValue l.btn0 P, ofBool_flagValue l.btn1 P, ofBool_flagValue l.btn2 P,
    ofBool_flagValue l.bumpL P, ofBool_flagValue l.bumpC P, ofBool_flagValue l.bumpR P, ofBool_flagValue l.dropL P,
    ofBool_flagValue l.dropC P, ofBool_flagValue l.dropR P, setWidth_countValue l.encL P,
    setWidth_countValue l.encR P, extraValues_getElem l.extra P⟩

end Sys2Proof.Machine
end

section
/-! Loading a layout (spec 42_sensor_codec.md R160, R162, 93_implementation_defined.md I6): what a table says of a field,
and that the table is accepted exactly when it says something R162 allows of every field. -/

namespace Sys2Proof.Machine

variable {raw : RawLayout} {f : SnapField} {d : Descriptor} {l : SensorLayout}

/-! ### What a table says of a field -/

theorem rawDesc_eq_some_iff_filter : rawDesc raw f = some d ↔ raw.filter (fun e => e.1 = f) = [(f, d)] := by
  unfold rawDesc
  split
  · rename_i e he
    have hmem : e ∈ raw.filter fun e => e.1 = f := he ▸ List.mem_singleton_self e
    obtain ⟨-, rfl⟩ : e ∈ raw ∧ e.1 = f := by simpa using hmem
    simp [he, Prod.ext_iff]
  · rename_i hnot
    simpa using hnot (f, d)

/-- A table says `d` of a field when it names the field once, in an entry that gives it `d`. -/
theorem rawDesc_eq_some : rawDesc raw f = some d ↔ (raw.map Prod.fst).count f = 1 ∧ (f, d) ∈ raw := by
  have hcount : (raw.map Prod.fst).count f = (raw.filter fun e => e.1 = f).length := by
    rw [List.count_eq_countP, List.countP_map, List.countP_eq_length_filter]
    rfl
  have hmem : (f, d) ∈ raw ↔ (f, d) ∈ raw.filter fun e => e.1 = f := by simp
  rw [rawDesc_eq_some_iff_filter, hcount, hmem]
  constructor
  · intro h
    simp [h]
  · rintro ⟨hlen, hd⟩
    obtain ⟨e, he⟩ := List.length_eq_one_iff.mp hlen
    rw [he] at hd ⊢
    rw [List.mem_singleton.mp hd]

theorem rawDesc_eq_some_of_nodup (h : (raw.map Prod.fst).Nodup) : rawDesc raw f = some d ↔ (f, d) ∈ raw :=
  rawDesc_eq_some.trans <| and_iff_right_of_imp fun hmem => List.count_eq_one_of_mem h (List.mem_map_of_mem hmem)

/-- A table that says something of every field names none twice. -/
theorem nodup_of_rawDesc (h : ∀ f, ∃ d, rawDesc raw f = some d) : (raw.map Prod.fst).Nodup :=
  List.nodup_iff_count_le_one.mpr fun f => by
    obtain ⟨d, hd⟩ := h f
    exact (rawDesc_eq_some.mp hd).1.le

theorem asFlag_eq_some {e : FlagDescriptor} : asFlag d = some e ↔ d = flagDesc e := by
  cases d <;> cases e <;> simp [asFlag, flagDesc]

theorem asCount_eq_some {e : CountDescriptor} : asCount d = some e ↔ d = countDesc e := by
  cases d <;> cases e <;> simp [asCount, countDesc]

theorem rawFlag_eq_some {e : FlagDescriptor} : rawFlag raw f = some e ↔ rawDesc raw f = some (flagDesc e) := by
  simp [rawFlag, Option.bind_eq_some_iff, asFlag_eq_some]

theorem rawCount_eq_some {e : CountDescriptor} : rawCount raw f = some e ↔ rawDesc raw f = some (countDesc e) := by
  simp [rawCount, Option.bind_eq_some_iff, asCount_eq_some]

/-- The entries of a flag that R162 allows. -/
theorem exists_flag_entry :
    (∃ e, (f, flagDesc e) ∈ raw) ↔ (f, .absent) ∈ raw ∨ ∃ o k, (f, .bit o k) ∈ raw := by
  constructor
  · rintro ⟨⟨o, k⟩ | _, h⟩
    · exact .inr ⟨o, k, h⟩
    · exact .inl h
  · rintro (h | ⟨o, k, h⟩)
    · exact ⟨.absent, h⟩
    · exact ⟨.bit o k, h⟩

/-- The entries of an encoder field that R162 allows. -/
theorem exists_count_entry :
    (∃ e, (f, countDesc e) ∈ raw) ↔ (f, .absent) ∈ raw ∨ ∃ o, (f, .u16 o) ∈ raw := by
  constructor
  · rintro ⟨⟨o⟩ | _, h⟩
    · exact .inr ⟨o, h⟩
    · exact .inl h
  · rintro (h | ⟨o, h⟩)
    · exact ⟨.absent, h⟩
    · exact ⟨.u16 o, h⟩

/-! ### Acceptance -/

theorem forall_mem_extraFields {p : SnapField → Prop} : (∀ f ∈ extraFields, p f) ↔ ∀ i, p (.extra i) := by
  have hall : extraFields = (List.finRange 16).map .extra := by decide
  simp [hall]

/-- The table says of every field what R162 allows it. -/
theorem rawWellFormed_iff :
    rawWellFormed raw = true ↔
      (∀ f ∈ flagFields, ∃ e, rawDesc raw f = some (flagDesc e)) ∧
        (∀ f ∈ countFields, ∃ e, rawDesc raw f = some (countDesc e)) ∧
        ∀ i, ∃ d, rawDesc raw (.extra i) = some d := by
  simp only [rawWellFormed, Bool.and_eq_true, List.all_eq_true, Option.isSome_iff_exists, rawFlag_eq_some,
    rawCount_eq_some, forall_mem_extraFields, and_assoc]

theorem acceptLayout_eq_some : acceptLayout raw = some l ↔ rawWellFormed raw = true ∧ layoutOfRaw raw = l := by
  simp [acceptLayout]

theorem extraFields_getElem (i : Fin 16) : extraFields[i] = .extra i := by
  revert i
  decide

/-- An accepted layout is what the table says of every field, so no default is taken. -/
theorem rawDesc_of_accepted (h : acceptLayout raw = some l) (f : SnapField) : rawDesc raw f = some (layoutDesc l f) := by
  obtain ⟨hwf, rfl⟩ := acceptLayout_eq_some.mp h
  obtain ⟨hflags, hcounts, hextras⟩ := rawWellFormed_iff.mp hwf
  have hflag : ∀ f ∈ flagFields, rawDesc raw f = some (flagDesc ((rawFlag raw f).getD .absent)) := by
    intro f hf
    obtain ⟨e, he⟩ := hflags f hf
    rw [rawFlag_eq_some.mpr he, he, Option.getD_some]
  have hcount : ∀ f ∈ countFields, rawDesc raw f = some (countDesc ((rawCount raw f).getD .absent)) := by
    intro f hf
    obtain ⟨e, he⟩ := hcounts f hf
    rw [rawCount_eq_some.mpr he, he, Option.getD_some]
  cases f with
  | encL => exact hcount .encL (by decide)
  | encR => exact hcount .encR (by decide)
  | extra i =>
    obtain ⟨d, hd⟩ := hextras i
    have hi : (layoutOfRaw raw).extra[i] = (rawDesc raw (.extra i)).getD .absent := by
      rw [← extraFields_getElem i]
      simp [layoutOfRaw]
    rw [layoutDesc, hi, hd, Option.getD_some]
  | _ => exact hflag _ (by decide)

theorem nodup_of_accepted (h : acceptLayout raw = some l) : (raw.map Prod.fst).Nodup :=
  nodup_of_rawDesc fun f => ⟨_, rawDesc_of_accepted h f⟩

theorem mem_of_accepted (h : acceptLayout raw = some l) : (f, d) ∈ raw ↔ d = layoutDesc l f := by
  rw [← rawDesc_eq_some_of_nodup (nodup_of_accepted h), rawDesc_of_accepted h, Option.some.injEq, eq_comm]

/-- Settles O16: an accepted table says something allowed of every field and so names none twice; in a table that names
none twice, what it says of a field is the entry it has. -/
theorem layoutsAccepted : Obligations.LayoutsAccepted := by
  intro raw
  refine ⟨?_, fun l f d h => mem_of_accepted h, fun f d d' pre mid post hraw => ?_⟩
  · have haccepted : (∃ l, acceptLayout raw = some l) ↔ (raw.map Prod.fst).Nodup ∧ rawWellFormed raw = true :=
      ⟨fun ⟨l, h⟩ => ⟨nodup_of_accepted h, (acceptLayout_eq_some.mp h).1⟩,
        fun ⟨_, h⟩ => ⟨_, acceptLayout_eq_some.mpr ⟨h, rfl⟩⟩⟩
    rw [haccepted]
    refine and_congr_right fun hnodup => ?_
    simp only [rawWellFormed_iff, exists_flag_entry, exists_count_entry, rawDesc_eq_some_of_nodup hnodup]
    rfl
  · refine Option.eq_none_iff_forall_ne_some.mpr fun l h => ?_
    have hnodup := nodup_of_accepted h
    simp [hraw, List.nodup_append] at hnodup

end Sys2Proof.Machine
end

section
/-! DECODE (spec 42_sensor_codec.md R165), and when the snapshot changes (R163, R166, 10_state.md R36). -/

namespace Sys2Proof.Machine

variable {s t : State} {P : List Byte}

/-! ### The command -/

theorem exec_decode_idle (h : s.busy = false) : exec .decode s = outcomeOf (decodeCommand s) := unlessBusy_idle h

/-- Settles O11: the three cases of `decodeCommand`, with the fit of the layout read field by field. -/
theorem decodeCommandResult : Obligations.DecodeCommandResult := by
  intro s hb
  rw [exec_decode_idle hb]
  refine ⟨fun hv => congrArg outcomeOf (decodeCommand_noFrame hv), fun L P hv hL hP => ?_⟩
  have hframe : framePayload s = some P := framePayload_eq_some.mpr ⟨L, hL, hP⟩
  have hlen : P.length = L.toNat := ((Memory.readList_eq_some _ _ _ _).mp hP).1
  have hfits : layoutFits s.params.layout P.length = true ↔
      ∀ f, descOffset (layoutDesc s.params.layout f) + descWidth (layoutDesc s.params.layout f) ≤ L.toNat := by
    simp only [hlen, layoutFits_iff, descFits_iff]
  refine ⟨fun ⟨f, hf⟩ => ?_, fun hall => congrArg outcomeOf (decodeCommand_ok hv hframe (hfits.mpr hall))⟩
  have hshort : layoutFits s.params.layout P.length = false :=
    Bool.eq_false_iff.mpr fun h => absurd (hfits.mp h f) (Nat.not_le_of_lt hf)
  exact congrArg outcomeOf (decodeCommand_short hv hframe hshort)

/-- DECODE reads nothing that it writes. -/
theorem decodeCommand_repeats (h : decodeCommand s = .ok t) : decodeCommand t = .ok t := by
  rcases decodeCommand_cases h with ⟨hv, rfl⟩ | ⟨hv, P, hP, ⟨hf, rfl⟩ | ⟨hf, rfl⟩⟩
  · exact decodeCommand_noFrame hv
  · exact decodeCommand_ok hv hP hf
  · exact decodeCommand_short hv hP hf

/-- Settles O12: the frame and the layout are still there, and BUSY is still 0. -/
theorem decodeRepeats : Obligations.DecodeRepeats := by
  intro s t hb h
  rw [exec_decode_idle hb, outcomeOf_eq_next] at h
  have htb : t.busy = false := by
    rcases decodeCommand_cases h with ⟨-, rfl⟩ | ⟨-, P, -, ⟨-, rfl⟩ | ⟨-, rfl⟩⟩ <;> exact hb
  rw [exec_decode_idle htb, decodeCommand_repeats h]
  rfl

/-! ### The snapshot -/

/-- A POLL or a DECODE has ended with OK, and the snapshot is the whole decode, under the layout, of the payload held. -/
def State.decoded (l : SensorLayout) (t : State) : Prop :=
  (t.op = .poll ∨ t.op = .decode) ∧ t.code = .ok ∧ t.busy = false ∧ t.snapValid = true ∧
    ∃ P, framePayload t = some P ∧ layoutFits l P.length = true ∧ t.snap = snapshotOf l P

/-- The snapshot is as before, or all of it is new. -/
def State.keepsOrDecodes (s t : State) : Prop :=
  (t.snap = s.snap ∧ t.snapValid = s.snapValid) ∨ State.decoded s.params.layout t

theorem decodeCommand_snapshot (hb : s.busy = false) (h : decodeCommand s = .ok t) : State.keepsOrDecodes s t := by
  rcases decodeCommand_cases h with ⟨-, rfl⟩ | ⟨-, P, hP, ⟨hf, rfl⟩ | ⟨-, rfl⟩⟩
  · exact .inl ⟨rfl, rfl⟩
  · exact .inr ⟨.inr rfl, rfl, hb, rfl, P, hP, hf, rfl⟩
  · exact .inl ⟨rfl, rfl⟩

theorem exec_snapshot {i : Instr} (h : exec i s = .next t) : State.keepsOrDecodes s t := by
  rcases exec_cases h with ⟨-, rfl⟩ | ⟨hb, ⟨-, rfl⟩ | ⟨-, rfl⟩ | ⟨-, hd⟩ | ⟨o, P, -, rfl⟩ | ⟨-, rfl⟩⟩
  case inr.inr.inr.inl => exact decodeCommand_snapshot hb hd
  all_goals exact .inl ⟨rfl, rfl⟩

theorem rxMatch_snapshot (h : rxMatch s = .ok t) : State.keepsOrDecodes s t := by
  rcases rxMatch_cases h with ⟨-, rfl⟩ | ⟨ho, P, hP, ⟨hf, rfl⟩ | ⟨-, rfl⟩⟩
  · exact .inl ⟨rfl, rfl⟩
  · exact .inr ⟨.inl ho, rfl, rfl, rfl, P, hP, hf, rfl⟩
  · exact .inl ⟨rfl, rfl⟩

theorem rxeStep_snapshot {e : RxEvent} (h : rxeStep e s = .ok t) : State.keepsOrDecodes s t := by
  rcases rxeStep_cases h with ⟨-, rfl⟩ | ⟨b, -, ⟨-, rfl⟩ | ⟨-, -, rfl⟩ | ⟨-, -, rfl⟩ | ⟨-, -, rfl⟩ |
    ⟨-, -, bytes, -, ⟨-, hm⟩ | ⟨-, rfl⟩⟩⟩
  case inr.inl => unfold rxAwaitHeader; split <;> exact .inl ⟨rfl, rfl⟩
  case inr.inr.inr.inr.inr.inl =>
    have hkeep := rxMatch_snapshot hm
    exact hkeep
  case inr.inr.inr.inr.inr.inr => unfold rxMismatch; split <;> exact .inl ⟨rfl, rfl⟩
  all_goals exact .inl ⟨rfl, rfl⟩

theorem txeTurn_snapshot {p : TxPins} (h : txeTurn p s = .next t) : State.keepsOrDecodes s t := by
  rcases txeTurn_cases h with ⟨-, rfl⟩ | ⟨-, h⟩
  · exact .inl ⟨rfl, rfl⟩
  · rcases txeStep_cases h with ⟨-, rfl⟩ | ⟨-, -, rfl⟩ | ⟨-, -, b, -, ⟨-, rfl⟩ | ⟨-, rfl⟩⟩ <;> exact .inl ⟨rfl, rfl⟩

/-- Every step but a reset keeps the snapshot or decodes all of it. -/
theorem step_snapshot (h : step s = .next t) : (∃ ts, s.schedule = .rst :: ts) ∨ State.keepsOrDecodes s t := by
  rcases step_cases h with ⟨-, rfl⟩ | ⟨ts, ⟨p, i, -, -, h⟩ | ⟨p, r, -, -, h⟩ | ⟨p, -, rfl⟩ | ⟨hs, h⟩ | ⟨p, -, h⟩ | ⟨hs, -⟩⟩
  · exact .inr (.inl ⟨rfl, rfl⟩)
  · have hkeep := exec_snapshot h
    exact .inr hkeep
  · obtain ⟨⟨-, -, -, -, -, -, -, -, hsnap, hvalid⟩, -⟩ := hostAccess_frame h
    exact .inr (.inl ⟨hsnap, hvalid⟩)
  · exact .inr (.inl ⟨rfl, rfl⟩)
  · rcases rxeTurn_taking_cases hs h with rfl | ⟨e, es, -, h⟩
    · exact .inr (.inl ⟨rfl, rfl⟩)
    · have hkeep := rxeStep_snapshot h
      exact .inr hkeep
  · have hkeep := txeTurn_snapshot h
    exact .inr hkeep
  · exact .inl ⟨ts, hs⟩

/-- Settles O49: a step that is no reset and changes the snapshot has decoded all of it. -/
theorem snapshotRule : Obligations.SnapshotRule := by
  intro s t h hchange
  refine (step_snapshot h).imp_right fun hkeep => hkeep.resolve_left ?_
  rintro ⟨hsnap, hvalid⟩
  exact hchange.elim (· hsnap) (· hvalid)

end Sys2Proof.Machine
end

section
/-! A run of the host program in the schedule (spec 43_host_interface.md R189): no step refuses, so every run comes to its
first ended state, uses up its turns with BUSY = 1, or faults. -/

namespace Sys2Proof.Machine

variable {s t : State}

/-! ### No step refuses -/

theorem unlessBusy_ne_refused {x : Result} {r : Refusal} (h : x ≠ .refused r) : unlessBusy s x ≠ .refused r := by
  unfold unlessBusy
  split
  · nofun
  · exact h

/-- Every operation of the table has a meaning. -/
theorem exec_ne_refused (i : Instr) (s : State) (r : Refusal) : exec i s ≠ .refused r := by
  cases i with
  | decode => exact unlessBusy_ne_refused outcomeOf_ne_refused
  | encRaw => exact unlessBusy_ne_refused outcomeOf_ne_refused
  | _ => exact unlessBusy_ne_refused nofun

theorem hostAccess_ne_refused (p : HostPins) (s : State) (r : Refusal) : hostAccess p s ≠ .refused r := by
  unfold hostAccess
  split
  · nofun
  · split
    · nofun
    · exact outcomeOf_ne_refused

theorem rxeTurn_ne_refused (s : State) (r : Refusal) : rxeTurn s ≠ .refused r := by
  unfold rxeTurn
  split
  · split
    · nofun
    · exact outcomeOf_ne_refused
  · nofun

theorem txeTurn_ne_refused (p : TxPins) (s : State) (r : Refusal) : txeTurn p s ≠ .refused r := by
  unfold txeTurn
  split
  · exact outcomeOf_ne_refused
  · nofun

theorem step_ne_refused (s : State) (r : Refusal) : step s ≠ .refused r := by
  cases hs : s.schedule with
  | nil => rw [step_nil hs]; nofun
  | cons turn ts =>
    cases turn with
    | host p =>
      cases hd : decodeAccess p with
      | ok i => rw [step_host_instr hs hd]; exact exec_ne_refused i _ r
      | error d => rw [step_host_register hs hd]; exact hostAccess_ne_refused p _ r
    | env p => rw [step_env hs]; nofun
    | rxe => rw [step_rxe hs]; exact rxeTurn_ne_refused _ r
    | txe p => rw [step_txe hs]; exact txeTurn_ne_refused p _ r
    | rst => rw [step_rst hs]; nofun

/-! ### The end state -/

/-- The end state is the elements of 10_state.md R20 and the two stream positions, and nothing else. -/
theorem endState_eq_iff :
    s.endState = t.endState ↔
      State.sameReceive s t ∧ State.sameOperands s t ∧ State.sameTransmit s t ∧ t.busy = s.busy ∧ t.op = s.op ∧
        t.code = s.code ∧ t.rxTaken = s.rxTaken ∧ t.wire = s.wire := by
  constructor
  · intro h
    injection h
    simp only [State.sameReceive, State.sameOperands, State.sameTransmit, and_self, *]
  · intro h
    simp only [State.sameReceive, State.sameOperands, State.sameTransmit] at h
    simp only [State.endState, h]

/-! ### The course of a run -/

/-- `r` says what becomes of a run that comes to `t`: ended there, its turns used up with BUSY = 1, or a fault in the next
step (43_host_interface.md R189). -/
def RunResult.settledAt (r : RunResult) (t : State) : Prop :=
  (t.runEnded = true ∧ r = .ended t.endState) ∨
    (t.runEnded = false ∧ t.schedule = [] ∧ t.busy = true ∧ r = .running t) ∨
    (t.runEnded = false ∧ ∃ f, step t = .fault f ∧ r = .stopped f)

/-- No state before the `k`-th of the run from `s` has ended it. -/
def State.notEndedBefore (s : State) (k : Nat) : Prop :=
  ∀ j u, j < k → Host.Core.run Sys2Proof.core j s = .next u → u.runEnded = false

theorem State.notEndedBefore_zero (s : State) : s.notEndedBefore 0 := fun _ _ hj => absurd hj (Nat.not_lt_zero _)

/-- A run that has not ended goes on as the run from its next state. -/
theorem State.notEndedBefore.succ {k : Nat} (he : s.runEnded = false) (hs : step s = .next t) (h : t.notEndedBefore k) :
    s.notEndedBefore (k + 1) := by
  intro j u hj hrun
  cases j with
  | zero => cases hrun; exact he
  | succ j => exact h j u (Nat.lt_of_succ_lt_succ hj) ((run_succ hs).symm.trans hrun)

/-- With no turn left, only a running operation keeps a run from having ended. -/
theorem busy_of_schedule_nil (hs : s.schedule = []) (he : s.runEnded = false) : s.busy = true := by
  simpa [State.runEnded, State.hostDone, hs] using he

/-- Within `n` steps, and at no ended state before, the run from `s` comes to a state where `r` is what becomes of it. -/
def State.settlesWithin (s : State) (n : Nat) (r : RunResult) : Prop :=
  ∃ k t, k ≤ n ∧ Host.Core.run Sys2Proof.core k s = .next t ∧ s.notEndedBefore k ∧ r.settledAt t

theorem RunResult.settledAt.settlesWithin {r : RunResult} (h : r.settledAt s) (n : Nat) : s.settlesWithin n r :=
  ⟨0, s, Nat.zero_le n, rfl, s.notEndedBefore_zero, h⟩

theorem State.settlesWithin.succ {n : Nat} {r : RunResult} (he : s.runEnded = false) (hs : step s = .next t)
    (h : t.settlesWithin n r) : s.settlesWithin (n + 1) r := by
  obtain ⟨k, u, hk, hrun, hbefore, hsettled⟩ := h
  exact ⟨k + 1, u, Nat.succ_le_succ hk, (run_succ hs).trans hrun, hbefore.succ he hs, hsettled⟩

/-- As many steps as turns settle a run: every step takes a turn off the schedule, and none refuses. -/
theorem runToEnd_settles {n : Nat} (hn : s.schedule.length = n) : s.settlesWithin n (runToEnd n s) := by
  induction n generalizing s with
  | zero =>
    have hnil := List.length_eq_zero_iff.mp hn
    refine RunResult.settledAt.settlesWithin ?_ 0
    cases he : s.runEnded with
    | true => exact .inl ⟨he, runToEnd_ended he⟩
    | false => exact .inr (.inl ⟨he, hnil, busy_of_schedule_nil hnil he, if_neg (by simp [he])⟩)
  | succ n ih =>
    cases he : s.runEnded with
    | true => exact RunResult.settledAt.settlesWithin (.inl ⟨he, runToEnd_ended he⟩) _
    | false =>
      cases hstep : step s with
      | next t =>
        rw [runToEnd_next he hstep]
        exact (ih (by rw [step_schedule hstep, List.length_tail, hn, Nat.add_sub_cancel])).succ he hstep
      | fault f => exact RunResult.settledAt.settlesWithin (.inr (.inr ⟨he, f, hstep, runToEnd_fault he hstep⟩)) _
      | refused r => exact absurd hstep (step_ne_refused s r)

/-- Settles O60: what ends a run, what its end state holds, and the induction over the turns left. -/
theorem runEnds : Obligations.RunEnds :=
  ⟨fun s => (runEnded_iff s).trans (and_congr_left' (hostDone_iff s)), fun _ _ => endState_eq_iff,
    fun _ => runToEnd_settles rfl⟩

end Sys2Proof.Machine
end

section
/-! A HOST step at the register port (spec 43_host_interface.md R180, R181): what a read of an unspecified word does, and
what a write does, word by word. -/

namespace Sys2Proof.Machine

variable {s : State} {p : HostPins} {ts : List Turn} {i : BitVec 10} {w : Word}

/-- A read of an unspecified word stops the model (43_host_interface.md R180). -/
theorem step_host_read_error {f : Fault} (hs : s.schedule = .host p :: ts) (hq : p.hReq = true) (hw : p.hWe = false)
    (hv : view p.hWidx s = .error f) : step s = .fault f := by
  rw [step_host_register hs (decodeAccess_read hq hw), hostAccess_read hq hw, outcomeOf_eq_fault, hostRead,
    view_withSchedule, hv]

/-- Settles O34: the two answers of `view`. -/
theorem hostReadsOnlyLook : Obligations.HostReadsOnlyLook :=
  fun _ _ _ hs hq hw => ⟨fun _ hv => step_host_read hs hq hw hv, fun _ hv => step_host_read_error hs hq hw hv⟩

/-- A word that is neither an operand register nor in the TXPAY window takes nothing (43_host_interface.md R181). -/
theorem hostWrite_ignored (w : Word) (s : State) (hop : i.toNat < 0x002 ∨ 0x006 < i.toNat)
    (htx : i.toNat < 0x040 ∨ 0x07F < i.toNat) : hostWrite i w s = s := by
  cases hr : hostReg i with
  | none => exact hostWrite_unmapped w s hr
  | some r =>
    have hi := hostReg_index hr
    rw [hostWrite_of_index w s hi]
    cases r with
    | arg0 | arg1 | kp | ki | kd => simp only [regIndex] at hi; omega
    | txpay j => simp only [regIndex] at hi; omega
    | _ => rfl

theorem hostWrite_kp (w : Word) (s : State) : hostWrite 0x004#10 w s = { s with kp := w } :=
  hostWrite_of_index (r := .kp) w s rfl

theorem hostWrite_ki (w : Word) (s : State) : hostWrite 0x005#10 w s = { s with ki := w } :=
  hostWrite_of_index (r := .ki) w s rfl

theorem hostWrite_kd (w : Word) (s : State) : hostWrite 0x006#10 w s = { s with kd := w } :=
  hostWrite_of_index (r := .kd) w s rfl

/-- Settles O35: a CMD write is dispatched, and every other word is written as its register. -/
theorem hostWrites : Obligations.HostWrites := by
  intro s i w ts hs
  have hwrite : ∀ u, i ≠ 0x000#10 → hostWrite i w (State.withSchedule ts s) = u → step s = .next u :=
    fun u hi hu => hu ▸ step_host_write hs rfl rfl hi
  refine ⟨?_, ?_, ?_, ?_, ?_, ?_, fun j hj hi => ?_, fun hcmd hop htx => ?_⟩
  · rintro rfl
    exact step_cmdWrite hs
  · rintro rfl
    exact hwrite _ (by decide) (hostWrite_arg0 w _)
  · rintro rfl
    exact hwrite _ (by decide) (hostWrite_arg1 w _)
  · rintro rfl
    exact hwrite _ (by decide) (hostWrite_kp w _)
  · rintro rfl
    exact hwrite _ (by decide) (hostWrite_ki w _)
  · rintro rfl
    exact hwrite _ (by decide) (hostWrite_kd w _)
  · have hne : i ≠ 0x000#10 := by
      rintro rfl
      simp at hi
      omega
    exact ⟨_, hwrite _ hne (hostWrite_txpay w _ hj hi), Memory.readList_writeList s.txpay (4 * j) (le32 w),
      Memory.read_writeList_outside (le32 w) s.txpay (4 * j)⟩
  · have hne : i ≠ 0x000#10 := fun h => hcmd (congrArg BitVec.toNat h)
    exact hwrite _ hne (hostWrite_ignored w _ hop htx)

end Sys2Proof.Machine
end

section
/-! The dispatch of a CMD write, code by code (spec 43_host_interface.md R183, R186). -/

namespace Sys2Proof

/-- The ILLEGAL rows of the opcode table (30_encoding.md R83). -/
def Instr.illegal (i : Instr) : Prop := i = .illegal0 ∨ (∃ c, i = .illegalAB c) ∨ ∃ c, i = .illegalCF c

end Sys2Proof

namespace Sys2Proof.Machine

variable {s t : State} {i : Instr} {w : Word}

/-- While BUSY = 1 no operation has an effect (43_host_interface.md R183). -/
theorem exec_busy (i : Instr) (hb : s.busy = true) : exec i s = .next s := by
  cases i <;> exact unlessBusy_busy hb

theorem exec_illegal (hi : i.illegal) (hb : s.busy = false) : exec i s = .next (illegalOperation s) := by
  rcases hi with rfl | ⟨c, rfl⟩ | ⟨c, rfl⟩ <;> exact unlessBusy_idle hb

/-- Settles O9: each ILLEGAL row is `illegalOperation`. -/
theorem illegalCodesReport : Obligations.IllegalCodesReport := fun _ hb =>
  ⟨exec_illegal (.inl rfl) hb, fun c => exec_illegal (.inr (.inl ⟨c, rfl⟩)) hb,
    fun c => exec_illegal (.inr (.inr ⟨c, rfl⟩)) hb⟩

theorem cmdCode_toNat (w : Word) : (cmdCode w).toNat = w.toNat % 16 := by
  simp [cmdCode]

/-- A CMD word selects the instruction whose code it has in its four low bits. -/
theorem decodeCmd_of_code (hi : i.wf = true) (h : w.toNat % 16 = (encodeCode i).toNat) : decodeCmd w = i := by
  have hcode : cmdCode w = cmdCode (encodeWord i) := by
    rw [cmdCode_encodeWord]
    exact BitVec.eq_of_toNat_eq ((cmdCode_toNat w).trans h)
  rw [decodeCmd_congr hcode, decodeCmd_encodeWord hi]

/-- The codes of no operation select the ILLEGAL rows. -/
theorem decodeCmd_illegal (h : w.toNat % 16 = 0x0 ∨ 0xA ≤ w.toNat % 16) : (decodeCmd w).illegal := by
  have hcode : (encodeCode (decodeCmd w)).toNat = w.toNat % 16 := by rw [encodeCode_decodeCmd, cmdCode_toNat]
  cases hd : decodeCmd w with
  | illegal0 => exact .inl rfl
  | illegalAB c => exact .inr (.inl ⟨c, rfl⟩)
  | illegalCF c => exact .inr (.inr ⟨c, rfl⟩)
  | _ =>
    simp only [hd, encodeCode, BitVec.reduceToNat] at hcode
    omega

/-- Settles O7: the code selects the operation, which BUSY = 1 drops. -/
theorem cmdWriteDispatches : Obligations.CmdWriteDispatches := by
  intro s w ts hs
  have hstep := step_cmdWrite hs
  refine ⟨fun hb => hstep.trans (exec_busy _ hb), fun hb => ?_⟩
  have hlegal : ∀ i : Instr, i.wf = true → w.toNat % 16 = (encodeCode i).toNat →
      step s = exec i (State.withSchedule ts s) := fun i hi h => decodeCmd_of_code hi h ▸ hstep
  exact ⟨hlegal .poll rfl, hlegal .recv rfl, hlegal .decode rfl, hlegal .encRaw rfl, hlegal .encDrive rfl,
    hlegal .encPidDefault rfl, hlegal .encPidUser rfl, hlegal .encSound rfl, hlegal .encReqinfo rfl,
    fun h => hstep.trans (exec_illegal (decodeCmd_illegal h) hb)⟩

end Sys2Proof.Machine
end

section
/-! What can stop the model (spec 43_host_interface.md R180, 41_encoder.md R135, 93_implementation_defined.md I1). -/

namespace Sys2Proof.Machine

variable {s : State} {f : Fault} {i : BitVec 10}

/-- A byte or the snapshot is unspecified: the faults that I1 prescribes. -/
def Fault.unspecified (f : Fault) : Prop := f = .rxBufUnspecified ∨ f = .txpayUnspecified ∨ f = .snapshotUnspecified

theorem windowWord_error {g : Fault} {o : Option Word} (h : windowWord g o = .error f) : f = g := by
  cases o <;> cases h
  rfl

theorem snapWord_error {w : Word} (h : snapWord s w = .error f) : f = .snapshotUnspecified := by
  unfold snapWord at h
  split at h <;> cases h
  rfl

/-- A register has no value only where a window byte or the snapshot has none. -/
theorem view_error (h : view i s = .error f) : Fault.unspecified f := by
  cases hr : hostReg i with
  | none =>
    rw [view_unmapped s hr] at h
    cases h
  | some r =>
    rw [view_of_index s (hostReg_index hr)] at h
    cases r with
    | rxBuf j => exact .inl (windowWord_error h)
    | txpay j => exact .inr (.inl (windowWord_error h))
    | snapBtn | snapBump | snapDrop | snapEnc | snapExtra k => exact .inr (.inr (snapWord_error h))
    | _ => cases h

/-- An ENC_RAW whose payload is not all written stops the model (41_encoder.md R135). -/
theorem exec_encRaw_unwritten (hb : s.busy = false) (hP : rawPayload s = none) :
    exec .encRaw s = .fault .txpayUnspecified :=
  (unlessBusy_idle hb).trans (outcomeOf_eq_fault.mpr (rawCommand_eq_error.mpr hP))

/-- What stops a state that meets the invariant: a host read that has no value, or an ENC_RAW that has no payload. -/
theorem State.Inv.fault_cases (h : s.Inv) (hf : step s = .fault f) :
    ∃ p ts, s.schedule = .host p :: ts ∧ p.hReq = true ∧
      ((p.hWe = false ∧ view p.hWidx s = .error f) ∨ (decodeAccess p = .ok .encRaw ∧ f = .txpayUnspecified)) := by
  by_contra hno
  have hspec : s.readsSpecified := by
    intro p ts hs hq
    refine ⟨fun hw => ?_, fun hd hb => ?_⟩
    · cases hv : view p.hWidx s with
      | ok w => exact ⟨w, rfl⟩
      | error g =>
        obtain rfl : g = f := Host.Outcome.fault.inj ((step_host_read_error hs hq hw hv).symm.trans hf)
        exact absurd ⟨p, ts, hs, hq, .inl ⟨hw, hv⟩⟩ hno
    · cases hP : rawPayload s with
      | some P => exact ⟨P, rfl⟩
      | none =>
        have hraw : step s = .fault .txpayUnspecified :=
          (step_host_instr hs hd).trans (exec_encRaw_unwritten (s := State.withSchedule ts s) hb hP)
        exact absurd ⟨p, ts, hs, hq, .inr ⟨hd, Host.Outcome.fault.inj (hf.symm.trans hraw)⟩⟩ hno
  obtain ⟨t, ht⟩ := stepGoesOn s h hspec
  cases hf.symm.trans ht

/-- Settles O47: the contrapositive of `stepGoesOn`, with the fault of each of the two accesses. -/
theorem onlyUnspecifiedReadsStop : Obligations.OnlyUnspecifiedReadsStop := by
  refine ⟨step_ne_refused, fun s f h hf => ?_⟩
  obtain ⟨p, ts, hs, hq, ⟨hw, hv⟩ | ⟨hd, rfl⟩⟩ := h.fault_cases hf
  · exact ⟨view_error hv, p, ts, hs, hq, .inl hw⟩
  · exact ⟨.inr (.inl rfl), p, ts, hs, hq, .inr hd⟩

end Sys2Proof.Machine
end

section
/-! BUSY and CODE (spec 43_host_interface.md R183-R185, R189, 10_state.md R31): what a dispatch, a register access and an
engine's step do to them. -/

namespace Sys2Proof

/-- The operations that end inside their dispatch (43_host_interface.md R185). -/
def Instr.endsAtOnce (i : Instr) : Prop := i = .decode ∨ i.illegal

end Sys2Proof

namespace Sys2Proof.Machine

variable {s t : State} {i : Instr}

/-! ### The host -/

theorem Encodes.not_endsAtOnce {o : OpCode} {P : List Byte} (h : Encodes s i o P) : ¬ i.endsAtOnce := by
  cases h <;> simp [Instr.endsAtOnce, Instr.illegal]

theorem decodeCommand_busy (h : decodeCommand s = .ok t) : t.busy = s.busy := by
  rcases decodeCommand_cases h with ⟨-, rfl⟩ | ⟨-, P, -, ⟨-, rfl⟩ | ⟨-, rfl⟩⟩ <;> rfl

/-- A dispatch is dropped, ends at once, or leaves its operation running and CODE as before. -/
theorem exec_ends_cases (h : exec i s = .next t) :
    (s.busy = true ∧ t = s) ∨ (s.busy = false ∧ t.busy = false ∧ i.endsAtOnce) ∨
      (s.busy = false ∧ t.busy = true ∧ t.code = s.code ∧ ¬ i.endsAtOnce) := by
  rcases exec_cases h with h | ⟨hb, ⟨rfl, rfl⟩ | ⟨rfl, rfl⟩ | ⟨rfl, hd⟩ | ⟨o, P, hE, rfl⟩ | ⟨hi, rfl⟩⟩
  · exact .inl h
  · exact .inr (.inr ⟨hb, rfl, rfl, by simp [Instr.endsAtOnce, Instr.illegal]⟩)
  · exact .inr (.inr ⟨hb, rfl, rfl, by simp [Instr.endsAtOnce, Instr.illegal]⟩)
  · exact .inr (.inl ⟨hb, (decodeCommand_busy hd).trans hb, .inl rfl⟩)
  · exact .inr (.inr ⟨hb, rfl, rfl, hE.not_endsAtOnce⟩)
  · exact .inr (.inl ⟨hb, hb, .inr hi⟩)

/-- BUSY, OP and CODE, which only an operation writes (10_state.md R30, R31). -/
def State.sameStatus (s t : State) : Prop := t.busy = s.busy ∧ t.op = s.op ∧ t.code = s.code

theorem sameStatus_refl (s : State) : State.sameStatus s s := ⟨rfl, rfl, rfl⟩

theorem hostAccess_sameStatus {p : HostPins} (h : hostAccess p s = .next t) : State.sameStatus s t := by
  rcases hostAccess_cases h with ⟨-, rfl⟩ | ⟨-, -, rfl⟩ | ⟨-, -, w, -, rfl⟩
  · exact sameStatus_refl _
  · rcases hostWrite_cases p.hWidx p.hWdata s with hw | ⟨a, hw⟩ | ⟨a, hw⟩ | ⟨a, hw⟩ | ⟨a, hw⟩ | ⟨a, hw⟩ | ⟨j, -, hw⟩ <;>
      rw [hw] <;> exact sameStatus_refl _
  · exact sameStatus_refl _

/-- Settles O52: a CMD write is dropped, and a register access has its frames. -/
theorem hostDoesNotDisturb : Obligations.HostDoesNotDisturb := by
  intro s t p ts hs hb h
  cases hd : decodeAccess p with
  | ok i =>
    have hdropped : step s = .next (State.withSchedule ts s) := (step_host_instr hs hd).trans (exec_busy i hb)
    obtain rfl := Host.Outcome.next.inj (hdropped.symm.trans h)
    exact ⟨sameReceive_refl _, sameTransmit_refl _, hb, rfl, rfl, rfl, rfl, rfl⟩
  | error r =>
    rw [step_host_register hs hd] at h
    obtain ⟨hrx, htx, hwire⟩ := hostAccess_frame h
    obtain ⟨hbusy, hop, hcode⟩ := hostAccess_sameStatus h
    obtain ⟨-, hstream, htaken⟩ := hostAccess_sameInputs h
    exact ⟨hrx, htx, hbusy.trans hb, hop, hcode, hstream, htaken, hwire⟩

/-! ### The engines -/

/-- An engine's step ends the operation, which leaves rx_state IDLE, or touches neither BUSY nor CODE. -/
def State.endsOrGoesOn (s t : State) : Prop :=
  (t.busy = false ∧ t.rxState = .idle) ∨ (t.busy = s.busy ∧ t.code = s.code)

theorem finish_ends (c : ResultCode) (u : State) : State.endsOrGoesOn s (finish c u) := .inl ⟨rfl, rfl⟩

theorem rxeStep_endsOrGoesOn {e : RxEvent} (h : rxeStep e s = .ok t) : State.endsOrGoesOn s t := by
  rcases rxeStep_cases h with ⟨-, rfl⟩ | ⟨b, -, ⟨-, rfl⟩ | ⟨-, -, rfl⟩ | ⟨-, -, rfl⟩ | ⟨-, -, rfl⟩ |
    ⟨-, -, bytes, -, ⟨-, hm⟩ | ⟨-, rfl⟩⟩⟩
  · exact finish_ends _ _
  · unfold rxAwaitHeader
    split <;> exact .inr ⟨rfl, rfl⟩
  · exact finish_ends _ _
  · exact .inr ⟨rfl, rfl⟩
  · exact .inr ⟨rfl, rfl⟩
  · rcases rxMatch_cases hm with ⟨-, rfl⟩ | ⟨-, P, -, ⟨-, rfl⟩ | ⟨-, rfl⟩⟩ <;> exact finish_ends _ _
  · unfold rxMismatch
    split
    · exact finish_ends _ _
    · exact .inr ⟨rfl, rfl⟩

theorem txeStep_endsOrGoesOn {p : TxPins} (h : txeStep p s = .ok t) : State.endsOrGoesOn s t := by
  rcases txeStep_cases h with ⟨-, rfl⟩ | ⟨-, -, rfl⟩ | ⟨-, -, b, -, ⟨-, rfl⟩ | ⟨-, rfl⟩⟩
  · exact finish_ends _ _
  · exact .inr ⟨rfl, rfl⟩
  · exact finish_ends _ _
  · exact .inr ⟨rfl, rfl⟩

/-! ### Every step -/

/-- The engine whose turn it is runs the operation. -/
def State.engineTurn (s : State) : Prop :=
  (s.op.isReceive = true ∧ ∃ ts, s.schedule = .rxe :: ts) ∨ (s.op.isEncode = true ∧ ∃ p ts, s.schedule = .txe p :: ts)

/-- The host dispatches an operation that ends at once. -/
def State.dispatchEnds (s : State) : Prop :=
  ∃ p ts i, s.schedule = .host p :: ts ∧ decodeAccess p = .ok i ∧ i.endsAtOnce

/-- What a step does to BUSY and CODE. -/
theorem step_busy_code_cases (h : step s = .next t) :
    (∃ ts, s.schedule = .rst :: ts) ∨
      (t.code = s.code ∧ (t.busy = s.busy ∨ s.busy = false)) ∨
      (s.busy = true ∧ s.engineTurn ∧ t.busy = false ∧ t.rxState = .idle) ∨
      (s.busy = false ∧ t.busy = false ∧ s.dispatchEnds) := by
  rcases step_cases h with ⟨-, rfl⟩ | ⟨ts, ⟨p, i, hs, hd, h⟩ | ⟨p, r, -, -, h⟩ | ⟨p, -, rfl⟩ | ⟨hs, h⟩ |
    ⟨p, hs, h⟩ | ⟨hs, -⟩⟩
  · exact .inr (.inl ⟨rfl, .inl rfl⟩)
  · rcases exec_ends_cases h with ⟨-, rfl⟩ | ⟨hb, htb, hi⟩ | ⟨hb, -, hcode, -⟩
    · exact .inr (.inl ⟨rfl, .inl rfl⟩)
    · exact .inr (.inr (.inr ⟨hb, htb, p, ts, i, hs, hd, hi⟩))
    · exact .inr (.inl ⟨hcode, .inr hb⟩)
  · obtain ⟨hb, -, hcode⟩ := hostAccess_sameStatus h
    exact .inr (.inl ⟨hcode, .inl hb⟩)
  · exact .inr (.inl ⟨rfl, .inl rfl⟩)
  · rcases rxeTurn_taking_cases hs h with rfl | ⟨e, es, ⟨-, hb, ho, -⟩, h⟩
    · exact .inr (.inl ⟨rfl, .inl rfl⟩)
    · rcases rxeStep_endsOrGoesOn h with ⟨htb, hidle⟩ | ⟨htb, hcode⟩
      · exact .inr (.inr (.inl ⟨hb, .inl ⟨ho, ts, hs⟩, htb, hidle⟩))
      · exact .inr (.inl ⟨hcode, .inl htb⟩)
  · rcases txeTurn_cases h with ⟨-, rfl⟩ | ⟨hv, h⟩
    · exact .inr (.inl ⟨rfl, .inl rfl⟩)
    · obtain ⟨hb, ho⟩ := txValid_iff.mp hv
      rcases txeStep_endsOrGoesOn h with ⟨htb, hidle⟩ | ⟨htb, hcode⟩
      · exact .inr (.inr (.inl ⟨hb, .inr ⟨ho, p, ts, hs⟩, htb, hidle⟩))
      · exact .inr (.inl ⟨hcode, .inl htb⟩)
  · exact .inl ⟨ts, hs⟩

/-- Settles O53: a step that is no reset and changes CODE ends the operation that runs, or one that it dispatches. -/
theorem codeWrittenAtTheEnd : Obligations.CodeWrittenAtTheEnd := by
  intro s t h hne
  rcases step_busy_code_cases h with hr | ⟨hcode, -⟩ | ⟨hb, -, htb, -⟩ | ⟨hb, htb, hd⟩
  · exact .inl hr
  · exact absurd hcode hne
  · exact .inr (.inl ⟨hb, htb⟩)
  · exact .inr (.inr ⟨hb, htb, hd⟩)

/-- Settles O59: of the steps that take BUSY from 1 to 0 only an engine's is no reset; a dispatch by its own cases. -/
theorem operationEnds : Obligations.OperationEnds := by
  refine ⟨fun s t h hb htb => ?_, fun s t i hb h => ?_⟩
  · rcases step_busy_code_cases h with hr | ⟨-, hsame | hidle⟩ | ⟨-, hturn, -, hidle⟩ | ⟨hidle, -⟩
    · exact .inl hr
    · simp [hb, htb] at hsame
    · simp [hb] at hidle
    · exact .inr ⟨hidle, hturn⟩
    · simp [hb] at hidle
  · rcases exec_ends_cases h with ⟨hbusy, -⟩ | ⟨-, htb, hi⟩ | ⟨-, htb, -, hi⟩
    · simp [hb] at hbusy
    · exact iff_of_true htb hi
    · exact iff_of_false (by simp [htb]) hi

end Sys2Proof.Machine
end

section
/-! The order of the checks inside one CMD write (spec 60_exceptions.md R205). -/

namespace Sys2Proof.Machine

/-- Settles O8: BUSY = 1 drops every operation, the codes of no operation select the ILLEGAL rows, and DECODE tests RXVALID
first. -/
theorem cmdChecksInOrder : Obligations.CmdChecksInOrder := by
  intro s
  refine ⟨fun hb w => exec_busy (decodeCmd w) hb, fun hb w hcode => exec_illegal (decodeCmd_illegal hcode) hb,
    fun hb hv => ?_⟩
  rw [exec_decode_idle hb, decodeCommand_noFrame hv, outcomeOf_eq_next]

end Sys2Proof.Machine
end

section
/-! The reset step (spec 70_reset_and_hazards.md R230, R231): what the host reads after it, and the invariant of the machine
it leaves. -/

namespace Sys2Proof.Machine

variable {s : State} {i : BitVec 10}

/-- STATUS is 0 where each of its fields has its reset value (20_memory.md R53). -/
theorem statusWord_resetStep (s : State) : statusWord (resetStep s) = 0#32 := by
  simp [statusWord, flagBit, OpCode.bits, RxState.bits, ResultCode.bits]

/-- Every word of TXPAY has an unwritten byte (43_host_interface.md R180). -/
theorem view_txpay_resetStep (s : State) (hlo : 0x040 ≤ i.toNat) (hhi : i.toNat ≤ 0x07F) :
    view i (resetStep s) = .error .txpayUnspecified := by
  obtain ⟨j, hj⟩ := Nat.exists_eq_add_of_le hlo
  have hnone : txpayWord (resetStep s) j = none :=
    txpayWord_none (Memory.readList_none (Nat.zero_lt_succ 3) (Memory.read_nil _))
  rw [view_txpay _ (by omega) hj, hnone, windowWord]

/-- A word of RXBUF that starts below BUF_CAP has an unwritten byte, its first (43_host_interface.md R180). -/
theorem view_rxBuf_resetStep (hlo : 0x080 ≤ i.toNat) (hhi : i.toNat ≤ 0x0C0)
    (hcap : 4 * (i.toNat - 0x080) < s.params.bufCap) : view i (resetStep s) = .error .rxBufUnspecified := by
  obtain ⟨j, hj⟩ := Nat.exists_eq_add_of_le hlo
  have hbyte : rxBufWindowByte (resetStep s) (4 * j + 0) = none :=
    rxBufWindowByte_of_lt (s := resetStep s) (by rw [resetStep_params]; omega)
  rw [view_rxBuf _ (by omega) hj, rxBufWord_none (Nat.zero_lt_succ 3) hbyte, windowWord]

/-- The machine after reset is one that a reset step leaves as it is. -/
theorem resetWith_inv {p : Params} (hp : p.wf) : (State.resetWith p).Inv := resetStep_inv (s := State.resetWith p) hp

theorem config_params_wf : Config.params.wf := by decide

/-- Settles O42: `resetStep` element by element, and the STATUS word its reset values make. -/
theorem step_rst_resets : Obligations.ResetStep := by
  intro s ts hs
  refine ⟨_, step_rst hs, ?_⟩
  simp [view_status, statusWord_resetStep]

/-- Settles O43: no byte of the three windows is written and SNAPVALID is 0, and the words up to 0xA2 lie below the least
BUF_CAP, 140. -/
theorem resetLeavesBuffersUnspecified : Obligations.ResetLeavesBuffersUnspecified := by
  intro s t ts hp hs hstep
  obtain rfl : resetStep (State.withSchedule ts s) = t := Host.Outcome.next.inj ((step_rst hs).symm.trans hstep)
  obtain ⟨-, -, hcap, -, -⟩ := hp
  refine ⟨fun i hlo hhi => view_txpay_resetStep _ hlo hhi, fun i hlo hhi => view_rxBuf_resetStep hlo (by omega) ?_,
    fun i hlo hhi => view_snapshot_unspecified (resetStep_snapValid _) hlo hhi⟩
  rw [withSchedule_params]
  omega

/-- Settles O44: the defaults are in their ranges. -/
theorem resetMeetsInvariant : Obligations.ResetMeetsInvariant := ⟨resetWith_inv config_params_wf, fun _ => resetWith_inv⟩

end Sys2Proof.Machine
end
